-- ==== Sys2Proof/Word.lean ====
section
/-! DEFINITION. The bytes and words of the ACFE (spec/00_scope.md R10) and the two byte arrays AES works on:
a 4-byte column and a block of four columns (spec/40_aes.md R131, R139). -/

namespace Sys2Proof

/-- R10: a byte is 8 bits, unsigned. -/
abbrev Byte := BitVec 8

/-- R10: a register is 32 bits. -/
abbrev Word := BitVec 32

/-- Four bytes, rows 0 to 3: one column of the AES state (R131) or one word `W[i]` of a key schedule,
`W[i][r]` being row `r` (R139, R140). -/
structure Column where
  r0 : Byte
  r1 : Byte
  r2 : Byte
  r3 : Byte
  deriving DecidableEq, Repr

/-- The 4×4 AES state (R131): columns 0 to 3, so that the bytes of a 16-byte block enter column by column. -/
structure Block where
  c0 : Column
  c1 : Column
  c2 : Column
  c3 : Column
  deriving DecidableEq, Repr

/-- The column of four zero bytes. -/
def Column.zero : Column := ⟨0, 0, 0, 0⟩

/-- Bytewise XOR of two columns (R11, `⊕`). -/
def Column.xor (a b : Column) : Column :=
  ⟨a.r0 ^^^ b.r0, a.r1 ^^^ b.r1, a.r2 ^^^ b.r2, a.r3 ^^^ b.r3⟩

/-- The same function on each of the four bytes. -/
def Column.map (f : Byte → Byte) (a : Column) : Column := ⟨f a.r0, f a.r1, f a.r2, f a.r3⟩

/-- The four bytes, row 0 first. -/
def Column.toBytes (a : Column) : List Byte := [a.r0, a.r1, a.r2, a.r3]

/-- Bytewise XOR of two blocks (R11, `⊕`). -/
def Block.xor (a b : Block) : Block :=
  ⟨a.c0.xor b.c0, a.c1.xor b.c1, a.c2.xor b.c2, a.c3.xor b.c3⟩

/-- The same function on each of the four columns. -/
def Block.map (f : Column → Column) (a : Block) : Block := ⟨f a.c0, f a.c1, f a.c2, f a.c3⟩

/-- R131: the block's 16 bytes, `out[r + 4c] = s[r,c]`. -/
def Block.toBytes (a : Block) : List Byte :=
  a.c0.toBytes ++ a.c1.toBytes ++ a.c2.toBytes ++ a.c3.toBytes

end Sys2Proof
end

