-- ==== Sys2Proof/Config.lean ====
section
/-! DEFINITION. What an implementation of the ACFE fixes (spec/00_scope.md R8, the OPEN parameters) and the one
value the spec leaves free (R12, `draw16()`). -/

namespace Sys2Proof

/-- R8: the three OPEN parameters. A model takes each as an argument: here they are a field of the state that no
step changes, so that a statement about every state is a statement about every choice of them. -/
structure Params where
  /-- BUF_BYTES: the frame-buffer capacity in bytes. -/
  bufBytes : Nat
  /-- HAS_TRNG: an internal random source of IVs is present. -/
  hasTrng : Bool
  /-- ACFE_BASE: the bus address of the register window. -/
  base : Nat
  deriving DecidableEq, Repr

/-- The parameters the model's own reset state carries. DESIGN CHOICE (notes/assumptions/1.md): R8 leaves all three
OPEN; BUF_BYTES = 4096 and HAS_TRNG = 0 are the ones spec/95_test_vectors.md starts its vectors from. -/
def Params.standard : Params := { bufBytes := 4096, hasTrng := false, base := 0 }

/-- R12, R251: `draw16()`, 16 arbitrary bytes under no law. A FREE VALUE (notes/assumptions/4.md): it has no body, so
nothing can be proved of it; the `n`-th draw of a run is its value at `n`. -/
opaque Config.draw16 : Nat → Vector Byte 16

end Sys2Proof
end

