-- ==== Sys2Proof/Syntax.lean ====
section
/-! DEFINITION. The instructions of the ACFE: one constructor per row of spec/opcode_table.json. The ACFE runs no
instruction stream: its instructions are the host accesses that carry meaning (spec/30_encoding.md, opening). -/

namespace Sys2Proof

/-- The rows of spec/opcode_table.json: the six commands written to CMD (R102), the word written to DIN (R104) and the
read of DOUT (R105). Commands take no operand fields (R106). -/
inductive Instr where
  /-- NOP, CMD word 0x00000000 (R240). -/
  | nop
  /-- ABORT, CMD word 0x00000001 (R241). -/
  | abort
  /-- ENC_BEGIN, CMD word 0x00000010 (R250). -/
  | encBegin
  /-- ENC_FINAL, CMD word 0x00000011 (R255). -/
  | encFinal
  /-- DEC_BEGIN, CMD word 0x00000020 (R257). -/
  | decBegin
  /-- RX_EOS, CMD word 0x00000021 (R259). -/
  | rxEos
  /-- A DIN write (R104, R264): DATA, LAST, and the 23 bits the ACFE ignores, kept here so that no bit of the word is
  lost in decoding (DESIGN CHOICE, notes/assumptions/17.md). -/
  | din (data : Byte) (last : Bool) (ignored : BitVec 23)
  /-- A DOUT read (R105, R265). -/
  | dout
  deriving DecidableEq, Repr

end Sys2Proof
end

