-- ==== Sys2Proof/Machine/Bus.lean ====
section
/-! DEFINITION. What reaches the ACFE from outside: the registers of the window by name (spec/10_state.md section 2),
a bus access before and after address decoding (spec/20_memory.md R70 to R73), and the events a step may take
(spec/00_scope.md R9). Types only; Decode.lean reads them. -/

namespace Sys2Proof

/-- The registers of the window (10_state.md section 2), by the names R107 gives them. -/
inductive Reg where
  | id | version | capacity | ctrl | cmd | status | intStatus | intEnable
  | keylen | dim | rxDim | ptlen | ctlen | din | dout
  | key (k : Fin 8)
  | iv (k : Fin 4)
  | digest (k : Fin 4)
  deriving DecidableEq, Repr

/-- A host bus access as the bus carries it: a byte address, a width in bits and, for a write, the data. DESIGN CHOICE:
address and width are unbounded (notes/assumptions/10.md). -/
inductive Access where
  | read (addr nbits : Nat)
  | write (addr nbits : Nat) (data : Word)
  deriving DecidableEq, Repr

/-- R72: the two host accesses the ACFE takes, at a byte offset in its window. R107 calls this pair of direction and
offset, with the value of a write, the encoding of an instruction. -/
inductive BusOp where
  | read (off : Nat)
  | write (off : Nat) (v : Word)
  deriving DecidableEq, Repr

/-- R9, R340: what may happen next: the host's access, the engine's completion step, or the platform's reset. -/
inductive Event where
  | access (a : Access)
  | engine
  | reset
  deriving DecidableEq, Repr

end Sys2Proof
end

