-- ==== Sys2Proof/WellFormed.lean ====
section
/-! DEFINITION. What makes parameters, accesses and instructions well formed. -/

namespace Sys2Proof

/-- R8: the bounds of the OPEN parameters: BUF_BYTES a multiple of 16 with 32 ≤ BUF_BYTES ≤ 2^31, and ACFE_BASE
256-byte aligned. -/
def Params.wf (p : Params) : Bool :=
  p.bufBytes % 16 == 0 && decide (32 ≤ p.bufBytes) && decide (p.bufBytes ≤ 2 ^ 31) && p.base % 256 == 0

/-- R72, R100: an access the ACFE takes: in the window, at an aligned offset. -/
def BusOp.wf : BusOp → Bool
  | .read off => decide (off < 256) && off % 4 == 0
  | .write off _ => decide (off < 256) && off % 4 == 0

/-- R70, R72, R73: a bus access that the ACFE at `base` decodes and takes: 32 bits, aligned, in the window. -/
def Access.wf (base : Nat) : Access → Bool
  | .read addr nbits =>
    decide (base ≤ addr) && decide (addr < base + 256) && nbits == 32 && (addr - base) % 4 == 0
  | .write addr nbits _ =>
    decide (base ≤ addr) && decide (addr < base + 256) && nbits == 32 && (addr - base) % 4 == 0

/-- An instruction's operands are typed at exactly the widths R104 gives them and the commands have none (R106), so
every term of `Instr` is well formed. -/
def Instr.wf : Instr → Bool
  | .nop => true
  | .abort => true
  | .encBegin => true
  | .encFinal => true
  | .decBegin => true
  | .rxEos => true
  | .din _ _ _ => true
  | .dout => true

end Sys2Proof
end

