-- ==== Sys2Proof/Decode.lean ====
section
/-! DEFINITION. From a bus access to an instruction: address decoding (spec/20_memory.md R70 to R73), the register map
(spec/10_state.md section 2) and the formats of spec/30_encoding.md R100 to R105; then the encoder, from the same
tables, and the two readings of a bare table word. -/

namespace Sys2Proof

/-- Why an access does not reach a register. -/
inductive BusReject where
  /-- R71: the address is outside the window, so the ACFE does not decode it. -/
  | notDecoded
  /-- R73: in the window, but not an aligned 32-bit access: a bus error. -/
  | notAligned32
  deriving DecidableEq, Repr

/-- Why an access the ACFE takes is no instruction of the opcode table. -/
inductive DecodeError where
  /-- R103: a CMD word with a reserved opcode or a non-zero bit in [31:8]. -/
  | illegalCommand (w : Word)
  /-- R266, R267: a read of a register other than DOUT. -/
  | registerRead (r : Reg)
  /-- R267: a write to a register other than CMD and DIN. -/
  | registerWrite (r : Reg) (v : Word)
  /-- R40: a read of an offset that holds no register. -/
  | reservedRead
  /-- R40: a write to an offset that holds no register. -/
  | reservedWrite
  deriving DecidableEq, Repr

/-- R70 to R73: the offset of an access in the window at `base`, or why it is turned away. DEDUCED: every access in the
window that is not an aligned 32-bit one is turned away (notes/assumptions/7.md and 8.md). -/
def addressDecode (base : Nat) : Access → Except BusReject BusOp
  | .read addr nbits =>
    if addr < base ∨ base + 256 ≤ addr then .error .notDecoded
    else if nbits ≠ 32 ∨ (addr - base) % 4 ≠ 0 then .error .notAligned32
    else .ok (.read (addr - base))
  | .write addr nbits v =>
    if addr < base ∨ base + 256 ≤ addr then .error .notDecoded
    else if nbits ≠ 32 ∨ (addr - base) % 4 ≠ 0 then .error .notAligned32
    else .ok (.write (addr - base) v)

/-- The register map of 10_state.md section 2: the offset of each register from ACFE_BASE. -/
def Reg.offset : Reg → Nat
  | .id => 0x00
  | .version => 0x04
  | .capacity => 0x08
  | .ctrl => 0x0C
  | .cmd => 0x10
  | .status => 0x14
  | .intStatus => 0x18
  | .intEnable => 0x1C
  | .keylen => 0x20
  | .dim => 0x24
  | .rxDim => 0x28
  | .ptlen => 0x2C
  | .ctlen => 0x30
  | .din => 0x34
  | .dout => 0x38
  | .key k => 0x40 + 4 * k.val
  | .iv k => 0x60 + 4 * k.val
  | .digest k => 0x70 + 4 * k.val

/-- The register map read the other way: the register at an offset. None at 0x3C and from 0x80 (R40). -/
def regAt : Nat → Option Reg
  | 0x00 => some .id
  | 0x04 => some .version
  | 0x08 => some .capacity
  | 0x0C => some .ctrl
  | 0x10 => some .cmd
  | 0x14 => some .status
  | 0x18 => some .intStatus
  | 0x1C => some .intEnable
  | 0x20 => some .keylen
  | 0x24 => some .dim
  | 0x28 => some .rxDim
  | 0x2C => some .ptlen
  | 0x30 => some .ctlen
  | 0x34 => some .din
  | 0x38 => some .dout
  | 0x40 => some (.key 0)
  | 0x44 => some (.key 1)
  | 0x48 => some (.key 2)
  | 0x4C => some (.key 3)
  | 0x50 => some (.key 4)
  | 0x54 => some (.key 5)
  | 0x58 => some (.key 6)
  | 0x5C => some (.key 7)
  | 0x60 => some (.iv 0)
  | 0x64 => some (.iv 1)
  | 0x68 => some (.iv 2)
  | 0x6C => some (.iv 3)
  | 0x70 => some (.digest 0)
  | 0x74 => some (.digest 1)
  | 0x78 => some (.digest 2)
  | 0x7C => some (.digest 3)
  | _ => none

/-- R101 to R103, R242: the command a CMD word selects. Bits [31:8] must be 0 and OPCODE one of the six. -/
def commandOf (v : Word) : Option Instr :=
  if v.extractLsb' 8 24 ≠ 0 then none
  else match (v.extractLsb' 0 8).toNat with
    | 0x00 => some .nop
    | 0x01 => some .abort
    | 0x10 => some .encBegin
    | 0x11 => some .encFinal
    | 0x20 => some .decBegin
    | 0x21 => some .rxEos
    | _ => none

/-- R104: the fields of a DIN word. -/
def dinOf (v : Word) : Instr :=
  .din (v.extractLsb' 0 8) (v.getLsbD 8) (v.extractLsb' 9 23)

/-- R100: a word's meaning is selected by the offset it is written to or read from and, for a CMD write, by its OPCODE.
Total, and rejecting by name: what is no instruction of the table is a register access (R267), a reserved offset (R40)
or an illegal CMD word (R103). -/
def decode : BusOp → Except DecodeError Instr
  | .read off =>
    match regAt off with
    | none => .error .reservedRead
    | some .dout => .ok .dout
    | some r => .error (.registerRead r)
  | .write off v =>
    match regAt off with
    | none => .error .reservedWrite
    | some .cmd =>
      match commandOf v with
      | some i => .ok i
      | none => .error (.illegalCommand v)
    | some .din => .ok (dinOf v)
    | some r => .error (.registerWrite r v)

/-- R104: the DIN word with the given fields: ignored bits [31:9], LAST in bit [8], DATA in bits [7:0]. -/
def dinWord (data : Byte) (last : Bool) (ignored : BitVec 23) : Word :=
  ignored ++ BitVec.ofBool last ++ data

/-- The access that is an instruction (R102, R104, R105, R107): a write of zext_32(OPCODE) to CMD, a write of a DIN word
to DIN, or a read of DOUT. -/
def encode : Instr → BusOp
  | .nop => .write 0x10 0x00000000
  | .abort => .write 0x10 0x00000001
  | .encBegin => .write 0x10 0x00000010
  | .encFinal => .write 0x10 0x00000011
  | .decBegin => .write 0x10 0x00000020
  | .rxEos => .write 0x10 0x00000021
  | .din data last ignored => .write 0x34 (dinWord data last ignored)
  | .dout => .read 0x38

/-- R12, R72: the aligned 32-bit bus access at ACFE_BASE + offset. -/
def BusOp.toAccess (base : Nat) : BusOp → Access
  | .read off => .read (base + off) 32
  | .write off v => .write (base + off) 32 v

/-- R72 with R100: the instruction a bus access is, where it is one. -/
def decodeAccess (base : Nat) (a : Access) : Option Instr :=
  match addressDecode base a with
  | .error _ => none
  | .ok op =>
    match decode op with
    | .ok i => some i
    | .error _ => none

/-- The access a bare word of the opcode table stands for. DESIGN CHOICE (notes/assumptions/6.md): the table's bits do
not hold the port a word goes to (R100 selects by offset and direction), so one order of reading is fixed: a legal CMD
word is that command; else a word in DOUT format with SEG_END or END set is the DOUT read that returns it; else it is a
DIN word. -/
def tableOp (w : Word) : BusOp :=
  if (commandOf w).isSome then .write 0x10 w
  else if w.extractLsb' 11 21 = 0 ∧ w.extractLsb' 9 2 ≠ 0 then .read 0x38
  else .write 0x34 w

/-- The instruction the decoder reads from a table word. Every row has 32 bits (R100), and a number that does not fit a
32-bit word is no word of the table. -/
def decodeTableWord (nbits w : Nat) : Option Instr :=
  if nbits ≤ 32 ∧ w < 2 ^ 32 then (decode (tableOp (BitVec.ofNat 32 w))).toOption else none

end Sys2Proof
end

