-- ==== Sys2Proof/Machine/State.lean ====
section
/-! DEFINITION. The state of the ACFE as plain data (spec/10_state.md), its state after reset (spec/70_reset_and_hazards.md
R340) and the reasons a step can stop. -/

namespace Sys2Proof.Machine

/-- Why a step ends in a fault. -/
inductive Fault where
  /-- R73: an access in the window that is not an aligned 32-bit access gets a bus error. Raised by the address decoder
  (`hostAccess`), with the data the host gets back from a refused read. The ACFE's state is unchanged. Safe: the
  hardware goes on after the bus error, the model stops, as R73 asks of it. -/
  | busError (a : Access) (readData : Word)
  /-- R71: an access outside the window is not decoded by the ACFE. Raised by the address decoder (`hostAccess`). Safe:
  what the host sees there is the platform's business, so the model says nothing about it. -/
  | notDecoded (a : Access)
  deriving DecidableEq, Repr

/-- Why a step ends in a refusal. -/
inductive Refusal where
  /-- An instruction without a meaning yet, by its mnemonic. Raised by no arm of this model: every row of the opcode
  table has its meaning. Safe. -/
  | notModelled (mnemonic : String)
  deriving DecidableEq, Repr

/-- R46, R47: STATE, the sequencer state. DEDUCED: codes 10 to 15 are never produced and have no constructor here
(notes/assumptions/14.md). -/
inductive SeqState where
  | idle | encIn | encProc | encOut | decDims | decSum | decCt | decProc | decOut | error
  deriving DecidableEq, Repr

/-- R49, R300: ERRC, the error code. DEDUCED: codes 10 to 15 are never produced and have no constructor here
(notes/assumptions/14.md). -/
inductive ErrCode where
  | noError | malformedFrame | integrityFailure | badKeyOrCorrupt | sizeMismatch
  | badKeyLength | badDimensions | capacity | sequenceError | illegalOpcode
  deriving DecidableEq, Repr

/-- R57: an item of the output queue: (byte, seg_end, end). -/
structure OutItem where
  byte : Byte
  segEnd : Bool
  last : Bool
  deriving DecidableEq, Repr

/-- The configuration registers: those a host writes and reads back, and the key store. Only the fields exist: every
reserved bit is RAZ/WI (R21), so it has no storage (DEDUCED, notes/assumptions/13.md). -/
structure ConfigRegs where
  /-- CTRL[0] IVSRC (R25). -/
  ivsrc : Bool
  /-- INT_ENABLE[0] DONE_EN (R29). -/
  doneEn : Bool
  /-- INT_ENABLE[1] ERR_EN (R29). -/
  errEn : Bool
  /-- KEYLEN[5:0] KL (R30). -/
  keylen : BitVec 6
  /-- DIM[15:0] WIDTH (R31). -/
  width : BitVec 16
  /-- DIM[31:16] HEIGHT (R31). -/
  height : BitVec 16
  /-- KEYREG[0..32), written through KEY0..KEY7 (R37). -/
  keyreg : Vector Byte 32
  /-- IVREG[0..16), written and read through IV0..IV3 (R38). -/
  ivreg : Vector Byte 16
  deriving DecidableEq, Repr

/-- The result registers, which only the ACFE writes. -/
structure ResultRegs where
  /-- RX_DIM[15:0] RX_WIDTH (R32). -/
  rxWidth : BitVec 16
  /-- RX_DIM[31:16] RX_HEIGHT (R32). -/
  rxHeight : BitVec 16
  /-- PTLEN (R33). -/
  ptlen : Word
  /-- CTLEN (R34). -/
  ctlen : Word
  /-- DG[0..16), read through DIGEST0..DIGEST3 (R39). -/
  dg : Vector Byte 16
  deriving DecidableEq, Repr

/-- The hidden working state (10_state.md section 4), which ABORT, error entry and reset empty as a whole. -/
structure Working where
  /-- WKEY, the working key (R50). -/
  wkey : List Byte
  /-- W, the key schedule of WKEY, or none (R50). -/
  w : Option (List Column)
  /-- WIV, the working IV (R51). -/
  wiv : Vector Byte 16
  /-- WW, the working width (R52). -/
  ww : BitVec 16
  /-- WH, the working height (R52). -/
  wh : BitVec 16
  /-- PT, the plaintext of an encryption (R53). -/
  pt : List Byte
  /-- TOK, the received dimensions token (R54). -/
  tok : List Byte
  /-- SUM, the received checksum text (R55). -/
  sum : List Byte
  /-- BUF, the frame buffer (R56). -/
  buf : List Byte
  /-- OUTQ, the output queue, head first (R57). -/
  outq : List OutItem
  deriving DecidableEq, Repr

/-- The state of the machine. The last three fields are the model's own (notes/assumptions/2.md, 3.md and 4.md). -/
structure State where
  /-- The implementation's parameters (R8): no step changes them. -/
  params : Params
  cfg : ConfigRegs
  res : ResultRegs
  work : Working
  /-- STATE (R46). -/
  seq : SeqState
  /-- ERRC (R49). -/
  errc : ErrCode
  /-- INT_STATUS[0] DONE (R28). -/
  intDone : Bool
  /-- INT_STATUS[1] ERR (R28). -/
  intErr : Bool
  /-- MODEL'S OWN: the events still to come, first to come first. Every order R9 and R309 allow is some list. -/
  queue : List Event
  /-- MODEL'S OWN: the word the latest host read returned. -/
  rdata : Word
  /-- MODEL'S OWN: how many draws of `draw16()` have been taken (R12). -/
  draws : Nat
  deriving DecidableEq, Repr

/-- R340: the configuration registers after reset: every field 0. -/
def ConfigRegs.zero : ConfigRegs :=
  { ivsrc := false, doneEn := false, errEn := false, keylen := 0, width := 0, height := 0,
    keyreg := Vector.replicate 32 0, ivreg := Vector.replicate 16 0 }

/-- R340 and R250, R257: the result registers after reset and after a BEGIN: every field 0. -/
def ResultRegs.zero : ResultRegs :=
  { rxWidth := 0, rxHeight := 0, ptlen := 0, ctlen := 0, dg := Vector.replicate 16 0 }

/-- R241, R303, R340: the working state with everything erased. -/
def Working.empty : Working :=
  { wkey := [], w := none, wiv := Vector.replicate 16 0, ww := 0, wh := 0,
    pt := [], tok := [], sum := [], buf := [], outq := [] }

/-- R340: the machine right after reset, for given parameters. Every value is the spec's; the model's own fields start
empty (DESIGN CHOICE, notes/assumptions/2.md, 3.md, 4.md). -/
def State.resetWith (p : Params) : State :=
  { params := p, cfg := ConfigRegs.zero, res := ResultRegs.zero, work := Working.empty, seq := .idle,
    errc := .noError, intDone := false, intErr := false, queue := [], rdata := 0, draws := 0 }

/-- R340: the machine right after reset. The parameters are DESIGN CHOICE (notes/assumptions/1.md). -/
def State.reset : State := State.resetWith Params.standard

end Sys2Proof.Machine
end

