-- ==== Sys2Proof/Machine/Operands.lean ====
section
/-! DEFINITION. The operands of the ACFE's instructions and the forms of its data words: byte lanes
(spec/20_memory.md R74), the operands a BEGIN latches (spec/30_encoding.md R106) and the DOUT word (R105). -/

namespace Sys2Proof.Machine

/-- R74: byte lane `j` of a register: bits [8j+7:8j]. -/
def lane (v : Word) (j : Nat) : Byte := v.extractLsb' (8 * j) 8

/-- R74: the word with the given bytes in lanes 0 to 3. -/
def ofLanes (b0 b1 b2 b3 : Byte) : Word := b3 ++ b2 ++ b1 ++ b0

/-- R37, R38: a write of `v` to register `k` of a byte store sets byte 4k+j to lane `j`. -/
def writeLanes {n : Nat} (store : Vector Byte n) (k : Nat) (v : Word) : Vector Byte n :=
  (((store.setIfInBounds (4 * k) (lane v 0)).setIfInBounds (4 * k + 1) (lane v 1)).setIfInBounds
    (4 * k + 2) (lane v 2)).setIfInBounds (4 * k + 3) (lane v 3)

/-- R38, R39: a read of register `k` of a byte store returns byte 4k+j in lane `j`. -/
def readLanes {n : Nat} (store : Vector Byte n) (k : Nat) : Word :=
  ofLanes (store[4 * k]?.getD 0) (store[4 * k + 1]?.getD 0) (store[4 * k + 2]?.getD 0)
    (store[4 * k + 3]?.getD 0)

/-- R30, R130: the accepted key lengths, in bytes. -/
def legalKeyLen (kl : Nat) : Bool := kl == 16 || kl == 24 || kl == 32

/-- R37, R106: the key in use, KEYREG[0..KL) with KL from KEYLEN. -/
def keyInUse (c : ConfigRegs) : List Byte := c.keyreg.toList.take c.keylen.toNat

/-- R52: 3·w·h, the plaintext length of a w×h image, an unbounded natural. -/
def imageBytes (w h : BitVec 16) : Nat := 3 * w.toNat * h.toNat

/-- R52: NPT, the required plaintext length of the encryption in progress. -/
def npt (s : State) : Nat := imageBytes s.work.ww s.work.wh

/-- R250: the length of the ciphertext of an `n`-byte plaintext, IV included: 16 + 16·(n div 16 + 1). -/
def ciphertextLen (n : Nat) : Nat := 16 + 16 * (n / 16 + 1)

/-- R251: SelectIV(): with IVSRC = 1 a draw, which IVREG then holds; else IVREG. The draw is a FREE VALUE
(notes/assumptions/4.md). -/
def selectIV (s : State) : Vector Byte 16 × State :=
  if s.cfg.ivsrc then
    (Config.draw16 s.draws,
      { s with cfg := { s.cfg with ivreg := Config.draw16 s.draws }, draws := s.draws + 1 })
  else (s.cfg.ivreg, s)

/-- R105: the word a DOUT read returns for an item: DATA, VALID = 1, SEG_END, END, zeros above. -/
def OutItem.toWord (it : OutItem) : Word :=
  (0 : BitVec 21) ++ BitVec.ofBool it.last ++ BitVec.ofBool it.segEnd ++ (1 : BitVec 1) ++ it.byte

/-- R36, R105: the word a DOUT read returns: the head item's, or exactly 0 when OUTQ is empty. -/
def doutWord : List OutItem → Word
  | [] => 0
  | it :: _ => it.toWord

end Sys2Proof.Machine
end

