-- ==== Sys2Proof/Machine/Flags.lean ====
section
/-! DEFINITION. The status fields and the interrupt output, each a view of other state: STATUS (spec/10_state.md R27,
R47, R49), INT_STATUS and INT_ENABLE (R28, R29) and irq (spec/60_exceptions.md R310). -/

namespace Sys2Proof.Machine

/-- R47: the 4-bit code of a sequencer state. -/
def SeqState.code : SeqState → BitVec 4
  | .idle => 0
  | .encIn => 1
  | .encProc => 2
  | .encOut => 3
  | .decDims => 4
  | .decSum => 5
  | .decCt => 6
  | .decProc => 7
  | .decOut => 8
  | .error => 9

/-- R300: the 4-bit code of an error. -/
def ErrCode.code : ErrCode → BitVec 4
  | .noError => 0
  | .malformedFrame => 1
  | .integrityFailure => 2
  | .badKeyOrCorrupt => 3
  | .sizeMismatch => 4
  | .badKeyLength => 5
  | .badDimensions => 6
  | .capacity => 7
  | .sequenceError => 8
  | .illegalOpcode => 9

/-- R27: BUSY, set iff STATE is ENC_PROC or DEC_PROC. -/
def SeqState.busy : SeqState → Bool
  | .encProc => true
  | .decProc => true
  | _ => false

/-- R27: IN_READY, set iff STATE is one of those in which DIN accepts a byte. -/
def SeqState.inReady : SeqState → Bool
  | .encIn => true
  | .decDims => true
  | .decSum => true
  | .decCt => true
  | _ => false

/-- R27: OUT_VALID, set iff OUTQ is non-empty. -/
def outValid (s : State) : Bool := !s.work.outq.isEmpty

/-- R27: STATUS: ERR in [11:8], OUT_VALID [6], IN_READY [5], BUSY [4], STATE in [3:0], zeros elsewhere. -/
def statusWord (s : State) : Word :=
  (0 : BitVec 20) ++ s.errc.code ++ (0 : BitVec 1) ++ BitVec.ofBool (outValid s) ++
    BitVec.ofBool s.seq.inReady ++ BitVec.ofBool s.seq.busy ++ s.seq.code

/-- R28: INT_STATUS: ERR [1], DONE [0], zeros elsewhere. -/
def intStatusWord (s : State) : Word :=
  (0 : BitVec 30) ++ BitVec.ofBool s.intErr ++ BitVec.ofBool s.intDone

/-- R29: INT_ENABLE: ERR_EN [1], DONE_EN [0], zeros elsewhere. -/
def intEnableWord (s : State) : Word :=
  (0 : BitVec 30) ++ BitVec.ofBool s.cfg.errEn ++ BitVec.ofBool s.cfg.doneEn

/-- R28: a write of `v` to INT_STATUS clears each bit that `v` has 1 in, and leaves the others. -/
def clearIntStatus (v : Word) (s : State) : State :=
  { s with intDone := s.intDone && !v.getLsbD 0, intErr := s.intErr && !v.getLsbD 1 }

/-- R310: irq, the interrupt output, a level, routed nowhere (DEDUCED, notes/assumptions/22.md). -/
def irq (s : State) : Bool := (s.intDone && s.cfg.doneEn) || (s.intErr && s.cfg.errEn)

end Sys2Proof.Machine
end

