-- ==== Sys2Proof/Machine/Ops.lean ====
section
/-! DEFINITION. The operations every meaning shares: error entry and the return from it (spec/60_exceptions.md R303,
R306; spec/44_commands.md R241), the dispatch of a CMD write (R242, R266) and the register window
(spec/10_state.md R21 to R40, R267). -/

namespace Sys2Proof.Machine

/-- R303: error entry, `raise Error(code)`: ERRC and STATE, INT_STATUS.ERR, and every working item erased. The
configuration and result registers keep their values (R304: nothing else happens). -/
def raise (code : ErrCode) (s : State) : State :=
  { s with errc := code, seq := .error, intErr := true, work := Working.empty }

/-- R241, R306: ABORT, the return from an error: every working item erased, ERRC 0, STATE IDLE. INT_STATUS and every
register keep their values. -/
def abortTransfer (s : State) : State :=
  { s with work := Working.empty, errc := .noError, seq := .idle }

/-- R242: Legal(op), the states in which each command may be issued. The data ports are judged by their own rules. -/
def legal : Instr → SeqState → Bool
  | .nop, _ => true
  | .abort, _ => true
  | .encBegin, q => q == .idle
  | .encFinal, q => q == .encIn
  | .decBegin, q => q == .idle
  | .rxEos, q => q == .decDims || q == .decSum || q == .decCt
  | .din _ _ _, _ => true
  | .dout, _ => true

/-- R242, R266: a CMD write of a legal word other than ABORT's: ignored in ERROR, SEQUENCE_ERROR where the command is
not legal, else the command's own rule `body`. -/
def command (i : Instr) (body : State → State) (s : State) : State :=
  if s.seq = .error then s
  else if legal i s.seq then body s
  else raise .sequenceError s

/-- R103, R242, R266: a CMD write of an illegal word: ignored in ERROR, ILLEGAL_OPCODE elsewhere. -/
def illegalCommand (s : State) : State :=
  if s.seq = .error then s else raise .illegalOpcode s

/-- 10_state.md section 2: the word a read of each register returns, leaving the read's side effect aside (only DOUT has
one, R76). CMD, DIN and KEYk are write-only and read as 0 (R21, R26, R35, R37). -/
def readReg (r : Reg) (s : State) : Word :=
  match r with
  | .id => 0x41434645
  | .version => 0x00010000
  | .capacity => BitVec.ofNat 32 s.params.bufBytes
  | .ctrl => (0 : BitVec 31) ++ BitVec.ofBool s.cfg.ivsrc
  | .cmd => 0
  | .status => statusWord s
  | .intStatus => intStatusWord s
  | .intEnable => intEnableWord s
  | .keylen => (0 : BitVec 26) ++ s.cfg.keylen
  | .dim => s.cfg.height ++ s.cfg.width
  | .rxDim => s.res.rxHeight ++ s.res.rxWidth
  | .ptlen => s.res.ptlen
  | .ctlen => s.res.ctlen
  | .din => 0
  | .dout => doutWord s.work.outq
  | .key _ => 0
  | .iv k => readLanes s.cfg.ivreg k.val
  | .digest k => readLanes s.res.dg k.val

/-- R21, R267: what a write to each register does, in every state. Read-only registers ignore it; reserved bits are
WI; CTRL.IVSRC is WARL, hardwired 0 when HAS_TRNG = 0 (R25). A write to CMD or DIN is an instruction (decode) and never
comes here. -/
def writeReg (r : Reg) (v : Word) (s : State) : State :=
  match r with
  | .id => s
  | .version => s
  | .capacity => s
  | .ctrl => { s with cfg := { s.cfg with ivsrc := s.params.hasTrng && v.getLsbD 0 } }
  | .cmd => s
  | .status => s
  | .intStatus => clearIntStatus v s
  | .intEnable => { s with cfg := { s.cfg with doneEn := v.getLsbD 0, errEn := v.getLsbD 1 } }
  | .keylen => { s with cfg := { s.cfg with keylen := v.extractLsb' 0 6 } }
  | .dim => { s with cfg := { s.cfg with width := v.extractLsb' 0 16, height := v.extractLsb' 16 16 } }
  | .rxDim => s
  | .ptlen => s
  | .ctlen => s
  | .din => s
  | .dout => s
  | .key k => { s with cfg := { s.cfg with keyreg := writeLanes s.cfg.keyreg k.val v } }
  | .iv k => { s with cfg := { s.cfg with ivreg := writeLanes s.cfg.ivreg k.val v } }
  | .digest _ => s

/-- A host read that returns `v` (R72): the model's own record of the word on the bus. -/
def respond (v : Word) (s : State) : State := { s with rdata := v }

end Sys2Proof.Machine
end

