-- ==== Sys2Proof/Machine/Commands.lean ====
section
/-! DEFINITION. The always-legal commands (spec/44_commands.md section 2): NOP and ABORT. -/

namespace Sys2Proof.Machine

/-- R240: NOP: nothing, in every state. -/
def execNop (s : State) : Host.Outcome State Fault Refusal :=
  .next (command .nop (fun s => s) s)

/-- R241, R242, R266: ABORT: acted on in every state, ERROR included. -/
def execAbort (s : State) : Host.Outcome State Fault Refusal :=
  .next (abortTransfer s)

end Sys2Proof.Machine
end

