-- ==== Sys2Proof/Machine/Md5.lean ====
section
/-! DEFINITION. The Integrity Guard: MD5 (spec/42_digest.md R190 to R196), the checksum text and its verification
(R200 to R202). -/

namespace Sys2Proof.Machine

/-- R191: the number of zero bytes in the padding: the least k with (len(M) + 1 + k) mod 64 = 56. -/
def md5ZeroBytes (len : Nat) : Nat := (119 - len % 64) % 64

/-- R191, R196: the `n` lowest bytes of a bit vector, lowest first (LE32 and LE64). -/
def leBytes {m : Nat} (n : Nat) (v : BitVec m) : List Byte :=
  (List.range n).map (fun j => v.extractLsb' (8 * j) 8)

/-- R191: the padded message M'. DEDUCED: for every length (notes/assumptions/21.md). -/
def md5Pad (m : List Byte) : List Byte :=
  m ++ [0x80] ++ List.replicate (md5ZeroBytes m.length) 0 ++ leBytes 8 (BitVec.ofNat 64 (8 * m.length))

/-- R191: the first `n` little-endian 32-bit words of a byte string. -/
def leWords : Nat → List Byte → List Word
  | 0, _ => []
  | n + 1, b => (b.getD 3 0 ++ b.getD 2 0 ++ b.getD 1 0 ++ b.getD 0 0) :: leWords n (b.drop 4)

/-- R191: the first `n` 64-byte blocks of a byte string, each as its 16 words. -/
def md5Blocks : Nat → List Byte → List (List Word)
  | 0, _ => []
  | n + 1, b => leWords 16 b :: md5Blocks n (b.drop 64)

/-- R192, R195: a chaining value (A, B, C, D). -/
structure Md5State where
  a : Word
  b : Word
  c : Word
  d : Word
  deriving DecidableEq, Repr

/-- R192: the initial chaining value. -/
def md5Init : Md5State := ⟨0x67452301, 0xefcdab89, 0x98badcfe, 0x10325476⟩

/-- R193: the constants T[0..63]. -/
def md5T : List Word :=
  [0xd76aa478, 0xe8c7b756, 0x242070db, 0xc1bdceee, 0xf57c0faf, 0x4787c62a, 0xa8304613, 0xfd469501,
   0x698098d8, 0x8b44f7af, 0xffff5bb1, 0x895cd7be, 0x6b901122, 0xfd987193, 0xa679438e, 0x49b40821,
   0xf61e2562, 0xc040b340, 0x265e5a51, 0xe9b6c7aa, 0xd62f105d, 0x02441453, 0xd8a1e681, 0xe7d3fbc8,
   0x21e1cde6, 0xc33707d6, 0xf4d50d87, 0x455a14ed, 0xa9e3e905, 0xfcefa3f8, 0x676f02d9, 0x8d2a4c8a] ++
  [0xfffa3942, 0x8771f681, 0x6d9d6122, 0xfde5380c, 0xa4beea44, 0x4bdecfa9, 0xf6bb4b60, 0xbebfbc70,
   0x289b7ec6, 0xeaa127fa, 0xd4ef3085, 0x04881d05, 0xd9d4d039, 0xe6db99e5, 0x1fa27cf8, 0xc4ac5665,
   0xf4292244, 0x432aff97, 0xab9423a7, 0xfc93a039, 0x655b59c3, 0x8f0ccc92, 0xffeff47d, 0x85845dd1,
   0x6fa87e4f, 0xfe2ce6e0, 0xa3014314, 0x4e0811a1, 0xf7537e82, 0xbd3af235, 0x2ad7d2bb, 0xeb86d391]

/-- R193: the rotation amount of step i: four amounts for each round of 16 steps, repeated. -/
def md5Shift (i : Nat) : Nat :=
  (match i / 16 with
    | 0 => [7, 12, 17, 22]
    | 1 => [5, 9, 14, 20]
    | 2 => [4, 11, 16, 23]
    | _ => [6, 10, 15, 21]).getD (i % 4) 0

/-- R194: the function f of step i. -/
def md5F (i : Nat) (b c d : Word) : Word :=
  match i / 16 with
  | 0 => (b &&& c) ||| (~~~b &&& d)
  | 1 => (b &&& d) ||| (c &&& ~~~d)
  | 2 => b ^^^ c ^^^ d
  | _ => c ^^^ (b ||| ~~~d)

/-- R194: the message index g of step i. -/
def md5G (i : Nat) : Nat :=
  match i / 16 with
  | 0 => i
  | 1 => (5 * i + 1) % 16
  | 2 => (3 * i + 5) % 16
  | _ => (7 * i) % 16

/-- R195: step i of the compression of the block with words `x`. -/
def md5Step (x : List Word) (q : Md5State) (i : Nat) : Md5State :=
  { a := q.d
    d := q.c
    c := q.b
    b := q.b + (q.a + md5F i q.b q.c q.d + md5T.getD i 0 + x.getD (md5G i) 0).rotateLeft (md5Shift i) }

/-- R195: the compression of one block into the chaining value. -/
def md5Compress (h : Md5State) (x : List Word) : Md5State :=
  let q := (List.range 64).foldl (md5Step x) h
  ⟨h.a + q.a, h.b + q.b, h.c + q.c, h.d + q.d⟩

/-- R195: the chaining value after the whole message. -/
def md5Digest (m : List Byte) : Md5State :=
  (md5Blocks ((md5Pad m).length / 64) (md5Pad m)).foldl md5Compress md5Init

/-- R196: the 16 bytes LE32(A) ‖ LE32(B) ‖ LE32(C) ‖ LE32(D). -/
def Md5State.toVector (h : Md5State) : Vector Byte 16 :=
  #v[h.a.extractLsb' 0 8, h.a.extractLsb' 8 8, h.a.extractLsb' 16 8, h.a.extractLsb' 24 8,
     h.b.extractLsb' 0 8, h.b.extractLsb' 8 8, h.b.extractLsb' 16 8, h.b.extractLsb' 24 8,
     h.c.extractLsb' 0 8, h.c.extractLsb' 8 8, h.c.extractLsb' 16 8, h.c.extractLsb' 24 8,
     h.d.extractLsb' 0 8, h.d.extractLsb' 8 8, h.d.extractLsb' 16 8, h.d.extractLsb' 24 8]

/-- R190, R201: MD5(M), the checksum of a ciphertext when M is one. -/
def md5 (m : List Byte) : Vector Byte 16 := (md5Digest m).toVector

/-- R200: the lowercase hex digit of a nibble. -/
def hexChar (v : Nat) : Byte := if v ≤ 9 then BitVec.ofNat 8 (0x30 + v) else BitVec.ofNat 8 (0x61 + v - 10)

/-- R200: Hex(D): two characters a byte, high nibble first. -/
def hexText (d : List Byte) : List Byte :=
  d.flatMap (fun b => [hexChar (b.toNat / 16), hexChar (b.toNat % 16)])

/-- R201: the wire form of the checksum of a ciphertext. -/
def checksumText (c : List Byte) : List Byte := hexText (md5 c).toList

/-- R202: Verify(C, S): S = Hex(MD5(C)), byte for byte. -/
def verify (c s : List Byte) : Bool := s == checksumText c

end Sys2Proof.Machine
end

