-- ==== Sys2Proof/Machine/Frame.lean ====
section
/-! DEFINITION. The Frame Codec: the dimensions token and the serializer (spec/43_frame.md R211 to R216). What is done
one byte at a time is in DataPorts.lean. -/

namespace Sys2Proof.Machine

/-- The decimal digits of v, most significant first, with `fuel` bounding their number. -/
def decDigits : Nat → Nat → List Byte
  | 0, _ => []
  | fuel + 1, v =>
    if v < 10 then [BitVec.ofNat 8 (0x30 + v)]
    else decDigits fuel (v / 10) ++ [BitVec.ofNat 8 (0x30 + v % 10)]

/-- R211: Dec(v), the ASCII decimal text of a natural. -/
def decText (v : Nat) : List Byte := decDigits (v + 1) v

/-- R213: FormatToken(W, H) = Dec(W) ‖ [','] ‖ Dec(H). -/
def formatToken (w h : Nat) : List Byte := decText w ++ [0x2C] ++ decText h

/-- R212: an ASCII digit, 0x30 to 0x39. -/
def isDigit (b : Byte) : Bool := decide (0x30 ≤ b.toNat) && decide (b.toNat ≤ 0x39)

/-- R214: val, the decimal value of a string of ASCII digits. -/
def decVal (f : List Byte) : Nat := f.foldl (fun acc b => 10 * acc + (b.toNat - 0x30)) 0

/-- R212, R214: the value of one field of a token: 1 to 5 digits, the first not '0', at most 65535. -/
def parseField (f : List Byte) : Option Nat :=
  if 1 ≤ f.length ∧ f.length ≤ 5 ∧ f.all isDigit ∧ f.getD 0 0 ≠ 0x30 ∧ decVal f ≤ 65535 then
    some (decVal f)
  else none

/-- R212, R214: ParseToken(T), none for FAIL. The token is split at its first comma; a second comma would stand in the
second field, where it is no digit. -/
def parseToken (t : List Byte) : Option (Nat × Nat) :=
  match t.dropWhile (fun b => b != 0x2C) with
  | [] => none
  | _ :: b =>
    match parseField (t.takeWhile (fun b => b != 0x2C)), parseField b with
    | some w, some h => some (w, h)
    | _, _ => none

/-- R215: Serialize(W, H, C), the frame as a byte string. -/
def serialize (w h : Nat) (c : List Byte) : List Byte := formatToken w h ++ checksumText c ++ c

/-- R216: one segment's items: seg_end on its last byte, and end there too when the segment is the output's last. -/
def segmentItems (final : Bool) : List Byte → List OutItem
  | [] => []
  | b :: bs =>
    if bs.isEmpty then [⟨b, true, final⟩] else ⟨b, false, false⟩ :: segmentItems final bs

/-- R216: the serializer's output queue. -/
def serializerQueue (w h : Nat) (c : List Byte) : List OutItem :=
  segmentItems false (formatToken w h) ++ segmentItems false (checksumText c) ++ segmentItems true c

/-- R261: the output queue of a decryption: the last byte of the plaintext carries both marks. -/
def plaintextQueue (r : List Byte) : List OutItem := segmentItems true r

end Sys2Proof.Machine
end

