-- ==== Sys2Proof/Machine/DataPorts.lean ====
section
/-! DEFINITION. The data ports (spec/44_commands.md section 5): the DIN write and the DOUT read. -/

namespace Sys2Proof.Machine

/-- R264 in ENC_IN: a plaintext byte, or SIZE_MISMATCH on overrun. DEDUCED: the count fits PTLEN
(notes/assumptions/15.md). -/
def dinPlaintext (b : Byte) (s : State) : State :=
  if s.work.pt.length = npt s then raise .sizeMismatch s
  else
    { s with
      work := { s.work with pt := s.work.pt ++ [b] }
      res := { s.res with ptlen := BitVec.ofNat 32 (s.work.pt ++ [b]).length } }

/-- R222: token acceptance: RX_DIM holds the parsed dimensions, TOK is emptied, STATE moves to DEC_SUM. -/
def acceptToken (w h : Nat) (s : State) : State :=
  { s with
    res := { s.res with rxWidth := BitVec.ofNat 16 w, rxHeight := BitVec.ofNat 16 h }
    work := { s.work with tok := [] }
    seq := .decSum }

/-- R264 in DEC_DIMS: a token byte; MALFORMED_FRAME for a twelfth byte or, with LAST, for a token that does not
parse. -/
def dinToken (b : Byte) (last : Bool) (s : State) : State :=
  if s.work.tok.length = 11 then raise .malformedFrame s
  else if last then
    match parseToken (s.work.tok ++ [b]) with
    | none => raise .malformedFrame s
    | some (w, h) => acceptToken w h s
  else { s with work := { s.work with tok := s.work.tok ++ [b] } }

/-- R264 in DEC_SUM: a checksum byte; the 32nd moves STATE to DEC_CT. -/
def dinChecksum (b : Byte) (s : State) : State :=
  { s with
    work := { s.work with sum := s.work.sum ++ [b] }
    seq := if (s.work.sum ++ [b]).length = 32 then .decCt else s.seq }

/-- R264 in DEC_CT: a ciphertext byte, or CAPACITY when BUF is full. -/
def dinCiphertext (b : Byte) (s : State) : State :=
  if s.work.buf.length = s.params.bufBytes then raise .capacity s
  else
    { s with
      work := { s.work with buf := s.work.buf ++ [b] }
      res := { s.res with ctlen := BitVec.ofNat 32 (s.work.buf ++ [b]).length } }

/-- R264: DIN by state. Ignored in ERROR (R266); SEQUENCE_ERROR where no byte is accepted. -/
def dinWrite (b : Byte) (last : Bool) (s : State) : State :=
  match s.seq with
  | .encIn => dinPlaintext b s
  | .decDims => dinToken b last s
  | .decSum => dinChecksum b s
  | .decCt => dinCiphertext b s
  | .error => s
  | .idle => raise .sequenceError s
  | .encProc => raise .sequenceError s
  | .encOut => raise .sequenceError s
  | .decProc => raise .sequenceError s
  | .decOut => raise .sequenceError s

/-- R264: a DIN write. Bits [31:9] have no effect (R104). -/
def execDin (data : Byte) (last : Bool) (_ignored : BitVec 23) (s : State) :
    Host.Outcome State Fault Refusal :=
  .next (dinWrite data last s)

/-- R265: the end of a transfer, at the read of the item with END: the working secrets and BUF erased, STATE IDLE. -/
def endTransfer (s : State) : State :=
  { s with
    work := { s.work with
      buf := [], wkey := [], w := none, wiv := Vector.replicate 16 0, ww := 0, wh := 0 }
    seq := .idle }

/-- R265: a DOUT read's effect on the queue and the transfer. -/
def popOut (s : State) : State :=
  match s.work.outq with
  | [] => s
  | it :: rest =>
    let t := { s with work := { s.work with outq := rest } }
    if it.last then endTransfer t else t

/-- R265: a DOUT read: it returns the head item's word and removes the item, or returns 0 with no effect. -/
def execDout (s : State) : Host.Outcome State Fault Refusal :=
  .next (respond (doutWord s.work.outq) (popOut s))

end Sys2Proof.Machine
end

