-- ==== Sys2Proof/Machine/Aes.lean ====
section
/-! DEFINITION. The AES block cipher (spec/40_aes.md R130 to R142): pure functions over bytes, columns and blocks. -/

namespace Sys2Proof.Machine

/-- R132: `xtime(a)` = a • 0x02 = (a << 1) ⊕ (a[7] ? 0x11B : 0), kept to 8 bits. -/
def xtime (a : Byte) : Byte := (a <<< 1) ^^^ (if a.getLsbD 7 then 0x1B else 0)

/-- `xtime` applied `i` times. -/
def xtimes : Nat → Byte → Byte
  | 0, a => a
  | i + 1, a => xtime (xtimes i a)

/-- R132: a • b, the XOR of xtime^i(a) over the bits i set in b. -/
def gmul (a b : Byte) : Byte :=
  (List.range 8).foldl (fun acc i => acc ^^^ (if b.getLsbD i then xtimes i a else 0)) 0

/-- R132: the inverse: the b with a • b = 0x01, and 0x00 for a = 0x00. -/
def byteInverse (a : Byte) : Byte :=
  (((List.range 256).map (BitVec.ofNat 8)).find? (fun b => gmul a b == 1)).getD 0

/-- A substitution table as the spec prints it: 16 rows, each row's 16 bytes from y=0 to y=f read as one number. The
entry for x = 16·hi + lo is at row hi, column lo. -/
def tableLookup (rows : List (BitVec 128)) (x : Byte) : Byte :=
  (rows.getD (x.toNat / 16) 0).extractLsb' (8 * (15 - x.toNat % 16)) 8

/-- R133: the rows of the substitution box S. -/
def sboxRows : List (BitVec 128) :=
  [0x637c777bf26b6fc53001672bfed7ab76, 0xca82c97dfa5947f0add4a2af9ca472c0,
   0xb7fd9326363ff7cc34a5e5f171d83115, 0x04c723c31896059a071280e2eb27b275,
   0x09832c1a1b6e5aa0523bd6b329e32f84, 0x53d100ed20fcb15b6acbbe394a4c58cf,
   0xd0efaafb434d338545f9027f503c9fa8, 0x51a3408f929d38f5bcb6da2110fff3d2,
   0xcd0c13ec5f974417c4a77e3d645d1973, 0x60814fdc222a908846eeb814de5e0bdb,
   0xe0323a0a4906245cc2d3ac629195e479, 0xe7c8376d8dd54ea96c56f4ea657aae08,
   0xba78252e1ca6b4c6e8dd741f4bbd8b8a, 0x703eb5664803f60e613557b986c11d9e,
   0xe1f8981169d98e949b1e87e9ce5528df, 0x8ca1890dbfe6426841992d0fb054bb16]

/-- R135: the rows of the inverse substitution box InvS. -/
def invSboxRows : List (BitVec 128) :=
  [0x52096ad53036a538bf40a39e81f3d7fb, 0x7ce339829b2fff87348e4344c4dee9cb,
   0x547b9432a6c2233dee4c950b42fac34e, 0x082ea16628d924b2765ba2496d8bd125,
   0x72f8f66486689816d4a45ccc5d65b692, 0x6c704850fdedb9da5e154657a78d9d84,
   0x90d8ab008cbcd30af7e45805b8b34506, 0xd02c1e8fca3f0f02c1afbd0301138a6b,
   0x3a9111414f67dcea97f2cfcef0b4e673, 0x96ac7422e7ad3585e2f937e81c75df6e,
   0x47f11a711d29c5896fb7620eaa18be1b, 0xfc563e4bc6d279209adbc0fe78cd5af4,
   0x1fdda8338807c731b11210592780ec5f, 0x60517fa919b54a0d2de57a9f93c99cef,
   0xa0e03b4dae2af5b0c8ebbb3c83539961, 0x172b047eba77d626e169146355210c7d]

/-- R133: S(x). -/
def sbox (x : Byte) : Byte := tableLookup sboxRows x

/-- R135: InvS(x). -/
def invSbox (x : Byte) : Byte := tableLookup invSboxRows x

/-- R136: SubBytes. -/
def subBytes (s : Block) : Block := s.map (Column.map sbox)

/-- R136: InvSubBytes. -/
def invSubBytes (s : Block) : Block := s.map (Column.map invSbox)

/-- R137: ShiftRows: s'[r,c] = s[r, (c + r) mod 4]. -/
def shiftRows (s : Block) : Block :=
  ⟨⟨s.c0.r0, s.c1.r1, s.c2.r2, s.c3.r3⟩, ⟨s.c1.r0, s.c2.r1, s.c3.r2, s.c0.r3⟩,
   ⟨s.c2.r0, s.c3.r1, s.c0.r2, s.c1.r3⟩, ⟨s.c3.r0, s.c0.r1, s.c1.r2, s.c2.r3⟩⟩

/-- R137: InvShiftRows: s'[r,c] = s[r, (c − r) mod 4]. -/
def invShiftRows (s : Block) : Block :=
  ⟨⟨s.c0.r0, s.c3.r1, s.c2.r2, s.c1.r3⟩, ⟨s.c1.r0, s.c0.r1, s.c3.r2, s.c2.r3⟩,
   ⟨s.c2.r0, s.c1.r1, s.c0.r2, s.c3.r3⟩, ⟨s.c3.r0, s.c2.r1, s.c1.r2, s.c0.r3⟩⟩

/-- R138: MixColumns on one column. -/
def mixColumn (a : Column) : Column :=
  ⟨gmul 0x02 a.r0 ^^^ gmul 0x03 a.r1 ^^^ a.r2 ^^^ a.r3,
   a.r0 ^^^ gmul 0x02 a.r1 ^^^ gmul 0x03 a.r2 ^^^ a.r3,
   a.r0 ^^^ a.r1 ^^^ gmul 0x02 a.r2 ^^^ gmul 0x03 a.r3,
   gmul 0x03 a.r0 ^^^ a.r1 ^^^ a.r2 ^^^ gmul 0x02 a.r3⟩

/-- R138: InvMixColumns on one column. -/
def invMixColumn (a : Column) : Column :=
  ⟨gmul 0x0e a.r0 ^^^ gmul 0x0b a.r1 ^^^ gmul 0x0d a.r2 ^^^ gmul 0x09 a.r3,
   gmul 0x09 a.r0 ^^^ gmul 0x0e a.r1 ^^^ gmul 0x0b a.r2 ^^^ gmul 0x0d a.r3,
   gmul 0x0d a.r0 ^^^ gmul 0x09 a.r1 ^^^ gmul 0x0e a.r2 ^^^ gmul 0x0b a.r3,
   gmul 0x0b a.r0 ^^^ gmul 0x0d a.r1 ^^^ gmul 0x09 a.r2 ^^^ gmul 0x0e a.r3⟩

/-- R138: MixColumns. -/
def mixColumns (s : Block) : Block := s.map mixColumn

/-- R138: InvMixColumns. -/
def invMixColumns (s : Block) : Block := s.map invMixColumn

/-- The four schedule words of round `rnd`, as a block. A word the schedule does not have counts as zero, which no
schedule of R140 ever shows. -/
def roundKey (w : List Column) (rnd : Nat) : Block :=
  ⟨w.getD (4 * rnd) Column.zero, w.getD (4 * rnd + 1) Column.zero,
   w.getD (4 * rnd + 2) Column.zero, w.getD (4 * rnd + 3) Column.zero⟩

/-- R139: AddRoundKey: s'[r,c] = s[r,c] ⊕ W[4·rnd + c][r]. -/
def addRoundKey (s : Block) (w : List Column) (rnd : Nat) : Block := s.xor (roundKey w rnd)

/-- R140: Rcon[1..10]; Rcon[j] = xtime^(j-1)(01). -/
def rcon (j : Nat) : Byte :=
  [0x01, 0x02, 0x04, 0x08, 0x10, 0x20, 0x40, 0x80, 0x1b, 0x36].getD (j - 1) 0

/-- R140: RotWord. -/
def rotWord (a : Column) : Column := ⟨a.r1, a.r2, a.r3, a.r0⟩

/-- R140: SubWord. -/
def subWord (a : Column) : Column := a.map sbox

/-- R140: the next schedule word W[i], i being the number of words so far. -/
def scheduleWord (nk : Nat) (w : List Column) : Column :=
  let i := w.length
  let t := w.getD (i - 1) Column.zero
  let t := if i % nk = 0 then (subWord (rotWord t)).xor ⟨rcon (i / nk), 0, 0, 0⟩
    else if nk = 8 ∧ i % nk = 4 then subWord t
    else t
  (w.getD (i - nk) Column.zero).xor t

/-- R140: the schedule `w` with `n` more words. -/
def extendSchedule (nk : Nat) : Nat → List Column → List Column
  | 0, w => w
  | n + 1, w => extendSchedule nk n (w ++ [scheduleWord nk w])

/-- R140: the first `n` words of a byte string, 4 bytes each. -/
def keyWords : Nat → List Byte → List Column
  | 0, _ => []
  | n + 1, k => ⟨k.getD 0 0, k.getD 1 0, k.getD 2 0, k.getD 3 0⟩ :: keyWords n (k.drop 4)

/-- R130: Nk, the number of key words. -/
def keyNk (k : List Byte) : Nat := k.length / 4

/-- R130: Nr, the number of rounds: 10, 12 and 14 for Nk = 4, 6 and 8. -/
def keyNr (k : List Byte) : Nat := keyNk k + 6

/-- R140: KeyExpansion(K), the 4(Nr+1) words of the schedule. Its caller checks the key length (R250, R257); for any
other length the value is the same formula's and no run reaches it (notes/assumptions/12.md). -/
def keyExpansion (k : List Byte) : List Column :=
  extendSchedule (keyNk k) (4 * (keyNr k + 1) - keyNk k) (keyWords (keyNk k) k)

/-- R130: the Nr of a schedule of 4(Nr+1) words. -/
def scheduleNr (w : List Column) : Nat := w.length / 4 - 1

/-- R141: AES_Enc(W, in). -/
def aesEnc (w : List Column) (x : Block) : Block :=
  let s := addRoundKey x w 0
  let s := (List.range' 1 (scheduleNr w - 1)).foldl
    (fun s rnd => addRoundKey (mixColumns (shiftRows (subBytes s))) w rnd) s
  addRoundKey (shiftRows (subBytes s)) w (scheduleNr w)

/-- R142: AES_Dec(W, in). -/
def aesDec (w : List Column) (y : Block) : Block :=
  let s := addRoundKey y w (scheduleNr w)
  let s := (List.range' 1 (scheduleNr w - 1)).reverse.foldl
    (fun s rnd => invMixColumns (addRoundKey (invSubBytes (invShiftRows s)) w rnd)) s
  addRoundKey (invSubBytes (invShiftRows s)) w 0

end Sys2Proof.Machine
end

