-- ==== Sys2Proof/Machine/Cbc.lean ====
section
/-! DEFINITION. The Cipher Engine: PKCS#7 padding, cipher-block chaining, Encrypt and Decrypt
(spec/41_cbc_pkcs7.md R170 to R176). -/

namespace Sys2Proof.Machine

/-- R170: Pad(P): n = 16 − (len(P) mod 16) copies of the byte n. -/
def pad (p : List Byte) : List Byte :=
  p ++ List.replicate (16 - p.length % 16) (BitVec.ofNat 8 (16 - p.length % 16))

/-- R171: Unpad(Q), none for FAIL. Only the final n bytes are checked. -/
def unpad (q : List Byte) : Option (List Byte) :=
  if q.length = 0 ∨ q.length % 16 ≠ 0 then none
  else
    let n := (q.getD (q.length - 1) 0).toNat
    if n = 0 ∨ 16 < n then none
    else if (q.drop (q.length - n)).all (fun b => b.toNat == n) then some (q.take (q.length - n))
    else none

/-- R131: bytes 4c to 4c+3 of a block as its column c. -/
def columnOf (b : List Byte) : Column := ⟨b.getD 0 0, b.getD 1 0, b.getD 2 0, b.getD 3 0⟩

/-- R131: the state a 16-byte block enters, s[r,c] = in[r + 4c]. -/
def blockOf (b : List Byte) : Block :=
  ⟨columnOf b, columnOf (b.drop 4), columnOf (b.drop 8), columnOf (b.drop 12)⟩

/-- The first `m` 16-byte blocks of a byte string. -/
def blocksOf : Nat → List Byte → List Block
  | 0, _ => []
  | m + 1, x => blockOf (x.take 16) :: blocksOf m (x.drop 16)

/-- The bytes of a list of blocks, in order. -/
def blocksToBytes (bs : List Block) : List Byte := bs.flatMap Block.toBytes

/-- R173: Ci = AES_Enc(W, Xi ⊕ C(i−1)), from C(i−1) = `prev` on. -/
def cbcEncBlocks (w : List Column) : Block → List Block → List Block
  | _, [] => []
  | prev, x :: xs => aesEnc w (x.xor prev) :: cbcEncBlocks w (aesEnc w (x.xor prev)) xs

/-- R174: Xi = AES_Dec(W, Ci) ⊕ C(i−1), from C(i−1) = `prev` on. -/
def cbcDecBlocks (w : List Column) : Block → List Block → List Block
  | _, [] => []
  | prev, c :: cs => (aesDec w c).xor prev :: cbcDecBlocks w c cs

/-- R173: CBC_Enc(W, IV, X), for X a whole number of blocks. -/
def cbcEnc (w : List Column) (iv x : List Byte) : List Byte :=
  blocksToBytes (cbcEncBlocks w (blockOf iv) (blocksOf (x.length / 16) x))

/-- R174: CBC_Dec(W, IV, Y), for Y a whole number of blocks. -/
def cbcDec (w : List Column) (iv y : List Byte) : List Byte :=
  blocksToBytes (cbcDecBlocks w (blockOf iv) (blocksOf (y.length / 16) y))

/-- R175: Encrypt(K, IV, P) = IV ‖ CBC_Enc(KeyExpansion(K), IV, Pad(P)). -/
def encrypt (k iv p : List Byte) : List Byte := iv ++ cbcEnc (keyExpansion k) iv (pad p)

/-- R176: Decrypt(K, C), none for FAIL. -/
def decrypt (k c : List Byte) : Option (List Byte) :=
  if c.length < 32 ∨ c.length % 16 ≠ 0 then none
  else unpad (cbcDec (keyExpansion k) (c.take 16) (c.drop 16))

end Sys2Proof.Machine
end

