-- ==== Sys2Proof/Machine/Decrypt.lean ====
section
/-! DEFINITION. Decryption (spec/44_commands.md section 4): DEC_BEGIN, RX_EOS and the engine's completion step. -/

namespace Sys2Proof.Machine

/-- R257: DEC_BEGIN in IDLE: BAD_KEY_LENGTH, or the latch of the key and the cleared results. -/
def decBegin (s : State) : State :=
  if !legalKeyLen s.cfg.keylen.toNat then raise .badKeyLength s
  else
    { s with
      seq := .decDims
      res := ResultRegs.zero
      work := { s.work with
        wkey := keyInUse s.cfg
        w := some (keyExpansion (keyInUse s.cfg))
        tok := []
        sum := []
        buf := []
        outq := [] } }

/-- R259: RX_EOS where it is legal: MALFORMED_FRAME before the checksum is complete, else on to DEC_PROC. -/
def rxEos (s : State) : State :=
  if s.seq = .decDims ∨ s.seq = .decSum then raise .malformedFrame s
  else { s with seq := .decProc }

/-- R257, R242: DEC_BEGIN. -/
def execDecBegin (s : State) : Host.Outcome State Fault Refusal :=
  .next (command .decBegin decBegin s)

/-- R259, R242: RX_EOS. -/
def execRxEos (s : State) : Host.Outcome State Fault Refusal :=
  .next (command .rxEos rxEos s)

/-- R262: the required plaintext length of the decryption in progress, 3·RX_WIDTH·RX_HEIGHT. -/
def rxBytes (s : State) : Nat := imageBytes s.res.rxWidth s.res.rxHeight

/-- R261: the release of a plaintext that passed every check. -/
def releasePlaintext (r : List Byte) (s : State) : State :=
  { s with
    work := { s.work with outq := plaintextQueue r, buf := [], sum := [] }
    seq := .decOut
    intDone := true }

/-- R261: DG, the digest of the received ciphertext, is written first and kept on every outcome (R13). -/
def storeDigest (s : State) : State := { s with res := { s.res with dg := md5 s.work.buf } }

/-- R261: PTLEN, written once the padding is valid and kept on every outcome from then on (R13, R33). -/
def storePtlen (n : Nat) (s : State) : State := { s with res := { s.res with ptlen := BitVec.ofNat 32 n } }

/-- R261, R262: what follows a plaintext whose padding is valid: PTLEN, then SizeCheck, then the release. -/
def decAccept (r : List Byte) (s : State) : State :=
  if r.length ≠ rxBytes s then raise .sizeMismatch (storePtlen r.length s)
  else releasePlaintext r (storePtlen r.length s)

/-- R261, R308: the engine step that completes a decryption, enabled iff STATE = DEC_PROC: the digest, then the integrity
check, then decryption and its padding, then the size check. -/
def decComplete (s : State) : State :=
  if verify s.work.buf s.work.sum then
    match decrypt s.work.wkey s.work.buf with
    | none => raise .badKeyOrCorrupt (storeDigest s)
    | some r => decAccept r (storeDigest s)
  else raise .integrityFailure (storeDigest s)

end Sys2Proof.Machine
end

