-- ==== Sys2Proof/Machine/Encrypt.lean ====
section
/-! DEFINITION. Encryption (spec/44_commands.md section 3): ENC_BEGIN, ENC_FINAL and the engine's completion step. -/

namespace Sys2Proof.Machine

/-- R250: what ENC_BEGIN latches and clears once every check has passed. -/
def encLatch (s : State) : State :=
  let (iv, t) := selectIV s
  { t with
    seq := .encIn
    res := ResultRegs.zero
    work := { t.work with
      wkey := keyInUse s.cfg
      w := some (keyExpansion (keyInUse s.cfg))
      wiv := iv
      ww := s.cfg.width
      wh := s.cfg.height
      pt := []
      buf := []
      outq := [] } }

/-- R250, R308: ENC_BEGIN in IDLE: BAD_KEY_LENGTH, then BAD_DIMENSIONS, then CAPACITY, then the latch. -/
def encBegin (s : State) : State :=
  if !legalKeyLen s.cfg.keylen.toNat then raise .badKeyLength s
  else if s.cfg.width = 0 ∨ s.cfg.height = 0 then raise .badDimensions s
  else if s.params.bufBytes < ciphertextLen (imageBytes s.cfg.width s.cfg.height) then raise .capacity s
  else encLatch s

/-- R255: ENC_FINAL in ENC_IN: SIZE_MISMATCH unless exactly NPT bytes were written. -/
def encFinal (s : State) : State :=
  if s.work.pt.length ≠ npt s then raise .sizeMismatch s
  else { s with seq := .encProc }

/-- R250, R242: ENC_BEGIN. -/
def execEncBegin (s : State) : Host.Outcome State Fault Refusal :=
  .next (command .encBegin encBegin s)

/-- R255, R242: ENC_FINAL. -/
def execEncFinal (s : State) : Host.Outcome State Fault Refusal :=
  .next (command .encFinal encFinal s)

/-- R256: the Ciphertext of the encryption in progress, Encrypt(WKEY, WIV, PT). DEDUCED: W is WKEY's schedule, so it is
not read (notes/assumptions/16.md). -/
def encCiphertext (s : State) : List Byte := encrypt s.work.wkey s.work.wiv.toList s.work.pt

/-- R256: the engine step that completes an encryption, enabled iff STATE = ENC_PROC. -/
def encComplete (s : State) : State :=
  let c := encCiphertext s
  { s with
    res := { s.res with ctlen := BitVec.ofNat 32 c.length, dg := md5 c }
    work := { s.work with
      buf := c
      outq := serializerQueue s.work.ww.toNat s.work.wh.toNat c
      pt := [] }
    seq := .encOut
    intDone := true }

end Sys2Proof.Machine
end

