-- ==== Sys2Proof/Machine/Dispatch.lean ====
section
/-! DEFINITION. One arm per instruction, each one call of its meaning. -/

namespace Sys2Proof.Machine

def exec (i : Instr) (s : State) : Host.Outcome State Fault Refusal :=
  match i with
  | .nop => Sys2Proof.Machine.execNop s
  | .abort => Sys2Proof.Machine.execAbort s
  | .encBegin => Sys2Proof.Machine.execEncBegin s
  | .encFinal => Sys2Proof.Machine.execEncFinal s
  | .decBegin => Sys2Proof.Machine.execDecBegin s
  | .rxEos => Sys2Proof.Machine.execRxEos s
  | .din data last ignored => Sys2Proof.Machine.execDin data last ignored s
  | .dout => Sys2Proof.Machine.execDout s

end Sys2Proof.Machine
end

