-- ==== Sys2Proof/Machine/Events.lean ====
section
/-! DEFINITION. What each event does (spec/00_scope.md R9): the host's bus access (spec/20_memory.md R70 to R73), the
engine's completion step (spec/44_commands.md R256, R261) and the platform's reset (spec/70_reset_and_hazards.md R340). -/

namespace Sys2Proof.Machine

/-- R73: the data a refused read returns. -/
def refusedReadData : Word := 0x00000000

/-- R72: one host access at an offset: an instruction of the opcode table, an illegal CMD word (R103), a register access
(R267) or an access to a reserved offset (R40). -/
def busOp (op : BusOp) (s : State) : Host.Outcome State Fault Refusal :=
  match decode op with
  | .ok i => exec i s
  | .error (.illegalCommand _) => .next (illegalCommand s)
  | .error (.registerRead r) => .next (respond (readReg r s) s)
  | .error (.registerWrite r v) => .next (writeReg r v s)
  | .error .reservedRead => .next (respond 0 s)
  | .error .reservedWrite => .next s

/-- R70 to R73: a bus access. One the ACFE does not take changes no state. -/
def hostAccess (a : Access) (s : State) : Host.Outcome State Fault Refusal :=
  match addressDecode s.params.base a with
  | .ok op => busOp op s
  | .error .notDecoded => .fault (.notDecoded a)
  | .error .notAligned32 => .fault (.busError a refusedReadData)

/-- R9: the engine's only steps complete a pending operation; with none pending, nothing happens (DESIGN CHOICE,
notes/assumptions/20.md). -/
def engineStep (s : State) : State :=
  match s.seq with
  | .encProc => encComplete s
  | .decProc => decComplete s
  | .idle => s
  | .encIn => s
  | .encOut => s
  | .decDims => s
  | .decSum => s
  | .decCt => s
  | .decOut => s
  | .error => s

/-- R340, R341: the platform's reset: every piece of the ACFE's state to its reset value. The parameters are fixed, and
the model's own fields are not the ACFE's (DESIGN CHOICE, notes/assumptions/9.md). -/
def platformReset (s : State) : State :=
  { State.resetWith s.params with queue := s.queue, rdata := s.rdata, draws := s.draws }

/-- What an event does. -/
def takeEvent (e : Event) (s : State) : Host.Outcome State Fault Refusal :=
  match e with
  | .access a => hostAccess a s
  | .engine => .next (engineStep s)
  | .reset => .next (platformReset s)

/-- R9, R81: what happens when nothing more is to come: weak fairness takes a pending completion; with none pending the
ACFE waits (93_implementation_defined.md I25, I26). DESIGN CHOICE (notes/assumptions/2.md). -/
def quiet (s : State) : State := engineStep s

end Sys2Proof.Machine
end

