-- ==== Sys2Proof/Machine/Step.lean ====
section
/-! DEFINITION. One step of the machine: the next event of the queue is taken (spec/00_scope.md R9: each step is one host
access, or one engine completion; spec/70_reset_and_hazards.md R340: a reset may come between any two steps). The ACFE
fetches nothing (spec/20_memory.md R77): what it does next is what the host, the engine and the platform do next. -/

namespace Sys2Proof.Machine

/-- The first event is taken off the queue and happens; with an empty queue, `quiet`. -/
def step (s : State) : Host.Outcome State Fault Refusal :=
  match s.queue with
  | [] => .next (quiet s)
  | e :: rest => takeEvent e { s with queue := rest }

/-- The state with the host access a table word stands for (`tableOp`, notes/assumptions/5.md and 6.md) as the very next
event. The ACFE has no program store: a program is the host's accesses, which come from outside. -/
def State.withFetchWord (s : State) (_nbits w : Nat) : State :=
  { s with queue := .access ((tableOp (BitVec.ofNat 32 w)).toAccess s.params.base) :: s.queue }

end Sys2Proof.Machine
end

