-- ==== Sys2Proof/Machine/Script.lean ====
section
/-! DEFINITION. The host-script language (spec/30_encoding.md R107, R108): its two base instructions, its
pseudo-instructions and their exact expansions into host accesses. -/

namespace Sys2Proof.Machine

/-- R107, R108: a line of a host script. A WAITIDLE is given with the number of STATUS reads it comes to
(notes/assumptions/11.md): how often it repeats is decided by what the reads return. -/
inductive ScriptLine where
  | wr (r : Reg) (v : Word)
  | rd (r : Reg)
  | cmd (opcode : Byte)
  | push (b : Byte)
  | pushl (b : Byte)
  | pushb (bs : List Byte)
  | pushtok (text : List Byte)
  | pop
  | setkey (k : List Byte)
  | setiv (iv : List Byte)
  | setdim (w h : BitVec 16)
  | waitidle (reads : Nat)
  deriving DecidableEq, Repr

/-- R107: `WR <REG>, <imm32>`. -/
def writeTo (r : Reg) (v : Word) : BusOp := .write r.offset v

/-- R107: `RD <REG>`. -/
def readFrom (r : Reg) : BusOp := .read r.offset

/-- R108: v_k = Σ_j byte(4k+j) << 8j for the words of a byte string, a byte past its end counting as 0. -/
def packWords (n : Nat) (bs : List Byte) : List Word := leWords n bs

/-- R108: the expansion of a line, in order. A register number past the last one is dropped: SETKEY takes at most 32
bytes and SETIV 16. -/
def ScriptLine.expand : ScriptLine → List BusOp
  | .wr r v => [writeTo r v]
  | .rd r => [readFrom r]
  | .cmd opcode => [writeTo .cmd (opcode.zeroExtend 32)]
  | .push b => [writeTo .din (b.zeroExtend 32)]
  | .pushl b => [writeTo .din (0x100 + b.zeroExtend 32)]
  | .pushb bs => bs.map (fun b => writeTo .din (b.zeroExtend 32))
  | .pushtok text =>
    text.dropLast.map (fun b => writeTo .din (b.zeroExtend 32)) ++
      (text.getLast?.toList).map (fun b => writeTo .din (0x100 + b.zeroExtend 32))
  | .pop => [readFrom .dout]
  | .setkey k =>
    writeTo .keylen (BitVec.ofNat 32 k.length) ::
      ((packWords ((k.length + 3) / 4) k).zip (List.finRange 8)).map (fun p => writeTo (.key p.2) p.1)
  | .setiv iv => ((packWords 4 iv).zip (List.finRange 4)).map (fun p => writeTo (.iv p.2) p.1)
  | .setdim w h => [writeTo .dim (h ++ w)]
  | .waitidle reads => List.replicate reads (readFrom .status)

/-- A host script as the events of a machine whose window is at `base`. -/
def scriptEvents (base : Nat) (lines : List ScriptLine) : List Event :=
  (lines.flatMap ScriptLine.expand).map (fun op => .access (op.toAccess base))

end Sys2Proof.Machine
end

