-- ==== Sys2Proof/Safety.lean ====
section
/-! DEFINITION. The terms claims are made in: error entry as a relation (spec/60_exceptions.md R303), the invariants of
the sequencer (spec/10_state.md R59 and what keeps them), reachability, the transition table (spec/44_commands.md R269)
and runs of several instructions. -/

namespace Sys2Proof.Safety

open Sys2Proof Sys2Proof.Machine

/-- R303, R304: `t` is `s` after error entry with `code`: ERRC, STATE and INT_STATUS.ERR written, every working item
erased, everything else as it was. -/
structure ErrorEntry (code : ErrCode) (s t : State) : Prop where
  errc : t.errc = code
  seq : t.seq = .error
  intErr : t.intErr = true
  work : t.work = Working.empty
  params : t.params = s.params
  cfg : t.cfg = s.cfg
  res : t.res = s.res
  intDone : t.intDone = s.intDone
  queue : t.queue = s.queue
  rdata : t.rdata = s.rdata
  draws : t.draws = s.draws

/-- What an instruction that belongs to a transfer leaves alone: the parameters, both INT_STATUS bits and the model's own
fields. -/
structure SameOutside (s t : State) : Prop where
  params : t.params = s.params
  intDone : t.intDone = s.intDone
  intErr : t.intErr = s.intErr
  queue : t.queue = s.queue
  rdata : t.rdata = s.rdata
  draws : t.draws = s.draws

/-- R57: in a queue of output items only the last has end = 1, and it has it. -/
def endsMarked : List OutItem → Bool
  | [] => true
  | it :: rest => if rest.isEmpty then it.last else !it.last && endsMarked rest

/-- R59, its eight lines in order. -/
structure ListedInvariants (s : State) : Prop where
  errc : s.seq ≠ .error → s.errc = .noError
  pt : s.seq ≠ .encIn → s.seq ≠ .encProc → s.work.pt = []
  tok : s.seq ≠ .decDims → s.work.tok = []
  sum : s.seq ≠ .decSum → s.seq ≠ .decCt → s.seq ≠ .decProc → s.work.sum = []
  sumFull : s.seq = .decCt ∨ s.seq = .decProc → s.work.sum.length = 32
  buf : s.seq ≠ .decCt → s.seq ≠ .decProc → s.seq ≠ .encOut → s.work.buf = []
  outq : s.seq ≠ .encOut → s.seq ≠ .decOut → s.work.outq = []
  outqFilled : s.seq = .encOut ∨ s.seq = .decOut → s.work.outq ≠ []

/-- The states of an encryption in progress. -/
def encrypting (q : SeqState) : Bool := q == .encIn || q == .encProc || q == .encOut

/-- The states of a decryption whose token has been accepted. -/
def tokenAccepted (q : SeqState) : Bool := q == .decSum || q == .decCt || q == .decProc || q == .decOut

/-- Every invariant of the sequencer the rules give: R59's, and the bounds and bindings of 10_state.md that keep them. -/
structure SequencerInv (s : State) : Prop where
  /-- R8. -/
  params : s.params.wf = true
  /-- R59. -/
  listed : ListedInvariants s
  /-- R25: with HAS_TRNG = 0, IVSRC is 0. -/
  ivsrc : s.cfg.ivsrc = true → s.params.hasTrng = true
  /-- R49: in ERROR, ERRC holds the code of an error. -/
  errcSet : s.seq = .error → s.errc ≠ .noError
  /-- R50: the working key and its schedule are erased outside a transfer. -/
  noKey : s.seq = .idle ∨ s.seq = .error → s.work.wkey = [] ∧ s.work.w = none
  /-- R50: in a transfer WKEY has a legal length and W is its schedule. -/
  key : s.seq ≠ .idle → s.seq ≠ .error →
    legalKeyLen s.work.wkey.length = true ∧ s.work.w = some (keyExpansion s.work.wkey)
  /-- R51: WIV is zero outside an encryption. -/
  noIv : encrypting s.seq = false → s.work.wiv = Vector.replicate 16 0
  /-- R52: WW and WH are zero outside an encryption. -/
  noDims : encrypting s.seq = false → s.work.ww = 0 ∧ s.work.wh = 0
  /-- R250: an encryption's dimensions are positive and its ciphertext fits. -/
  dims : encrypting s.seq = true →
    s.work.ww ≠ 0 ∧ s.work.wh ≠ 0 ∧ ciphertextLen (npt s) ≤ s.params.bufBytes
  /-- R53. -/
  ptBound : s.work.pt.length ≤ npt s
  /-- R255: in ENC_PROC the plaintext is complete. -/
  ptFull : s.seq = .encProc → s.work.pt.length = npt s
  /-- R33: in an encryption PTLEN counts the plaintext bytes, and keeps the count afterwards. -/
  ptlen : s.seq = .encIn ∨ s.seq = .encProc → s.res.ptlen.toNat = s.work.pt.length
  /-- R33. -/
  ptlenKept : s.seq = .encOut → s.res.ptlen.toNat = npt s
  /-- R33: in a decryption PTLEN is 0 until the padding is removed. -/
  ptlenZero : s.seq = .decDims ∨ s.seq = .decSum ∨ s.seq = .decCt ∨ s.seq = .decProc → s.res.ptlen = 0
  /-- R54. -/
  tokBound : s.work.tok.length ≤ 11
  /-- R55. -/
  sumBound : s.seq = .decSum → s.work.sum.length < 32
  /-- R56. -/
  bufBound : s.work.buf.length ≤ s.params.bufBytes
  /-- R34: in a transfer whose BUF has not been emptied, CTLEN counts the bytes in BUF. -/
  ctlen : s.seq ≠ .idle → s.seq ≠ .error → s.seq ≠ .decOut → s.res.ctlen.toNat = s.work.buf.length
  /-- R32: RX_DIM is 0 until a token is accepted. -/
  rxZero : encrypting s.seq = true ∨ s.seq = .decDims → s.res.rxWidth = 0 ∧ s.res.rxHeight = 0
  /-- R212, R222: accepted dimensions are positive. -/
  rxDims : tokenAccepted s.seq = true → s.res.rxWidth ≠ 0 ∧ s.res.rxHeight ≠ 0
  /-- R57. -/
  marks : endsMarked s.work.outq = true

/-- R340, R9: the states the machine can reach: from reset, with any legal parameters and any events to come, by any
number of steps. -/
inductive Reachable : State → Prop where
  | reset (p : Params) (events : List Event) (h : p.wf = true) :
      Reachable { State.resetWith p with queue := events }
  | step (s t : State) (h : Reachable s) (hs : Machine.step s = .next t) : Reachable t

/-- The events of the transition table R269: a CMD write, a DIN write, a DOUT read, an engine completion, or anything
else the host does; and the platform's reset (R340), which is no row of it. -/
inductive Cause where
  | cmd (v : Word)
  | din (data : Byte) (last : Bool)
  | dout
  | engine
  | reset
  | other
  deriving DecidableEq, Repr

/-- The cause an event is, for a window at `base`. -/
def causeOf (base : Nat) : Event → Cause
  | .engine => .engine
  | .reset => .reset
  | .access a =>
    match addressDecode base a with
    | .ok (.read off) => if off = 0x38 then .dout else .other
    | .ok (.write off v) =>
      if off = 0x10 then .cmd v
      else if off = 0x34 then .din (v.extractLsb' 0 8) (v.getLsbD 8)
      else .other
    | .error _ => .other

/-- R261: the outcome of the decryption completion of `s`: the state it leads to and the error code it leaves. -/
def decOutcome (s : State) : SeqState × ErrCode :=
  if verify s.work.buf s.work.sum = false then (.error, .integrityFailure)
  else
    match decrypt s.work.wkey s.work.buf with
    | none => (.error, .badKeyOrCorrupt)
    | some r => if r.length ≠ rxBytes s then (.error, .sizeMismatch) else (.decOut, .noError)

/-- R269: the rows of the transition table, in its order: from `s`, on a cause, to a state with an error code. -/
inductive Listed (s : State) : Cause → SeqState → ErrCode → Prop where
  | abort : Listed s (.cmd 0x00000001) .idle .noError
  | illegalWord (v : Word) (h : s.seq ≠ .error) (hv : commandOf v = none) :
      Listed s (.cmd v) .error .illegalOpcode
  | notLegal (v : Word) (i : Instr) (h : s.seq ≠ .error) (hv : commandOf v = some i)
      (hl : legal i s.seq = false) : Listed s (.cmd v) .error .sequenceError
  | encBegin (h : s.seq = .idle) (hk : legalKeyLen s.cfg.keylen.toNat = true)
      (hw : s.cfg.width ≠ 0) (hh : s.cfg.height ≠ 0)
      (hc : ciphertextLen (imageBytes s.cfg.width s.cfg.height) ≤ s.params.bufBytes) :
      Listed s (.cmd 0x00000010) .encIn .noError
  | encBeginKey (h : s.seq = .idle) (hk : legalKeyLen s.cfg.keylen.toNat = false) :
      Listed s (.cmd 0x00000010) .error .badKeyLength
  | encBeginDims (h : s.seq = .idle) (hk : legalKeyLen s.cfg.keylen.toNat = true)
      (hd : s.cfg.width = 0 ∨ s.cfg.height = 0) : Listed s (.cmd 0x00000010) .error .badDimensions
  | encBeginCapacity (h : s.seq = .idle) (hk : legalKeyLen s.cfg.keylen.toNat = true)
      (hw : s.cfg.width ≠ 0) (hh : s.cfg.height ≠ 0)
      (hc : s.params.bufBytes < ciphertextLen (imageBytes s.cfg.width s.cfg.height)) :
      Listed s (.cmd 0x00000010) .error .capacity
  | decBegin (h : s.seq = .idle) (hk : legalKeyLen s.cfg.keylen.toNat = true) :
      Listed s (.cmd 0x00000020) .decDims .noError
  | decBeginKey (h : s.seq = .idle) (hk : legalKeyLen s.cfg.keylen.toNat = false) :
      Listed s (.cmd 0x00000020) .error .badKeyLength
  | dinNotLegal (b : Byte) (l : Bool)
      (h : s.seq = .idle ∨ s.seq = .encProc ∨ s.seq = .encOut ∨ s.seq = .decProc ∨ s.seq = .decOut) :
      Listed s (.din b l) .error .sequenceError
  | plaintext (b : Byte) (l : Bool) (h : s.seq = .encIn) (hn : s.work.pt.length < npt s) :
      Listed s (.din b l) .encIn .noError
  | overrun (b : Byte) (l : Bool) (h : s.seq = .encIn) (hn : s.work.pt.length = npt s) :
      Listed s (.din b l) .error .sizeMismatch
  | encFinal (h : s.seq = .encIn) (hn : s.work.pt.length = npt s) :
      Listed s (.cmd 0x00000011) .encProc .noError
  | encFinalShort (h : s.seq = .encIn) (hn : s.work.pt.length ≠ npt s) :
      Listed s (.cmd 0x00000011) .error .sizeMismatch
  | encComplete (h : s.seq = .encProc) : Listed s .engine .encOut .noError
  | encPop (it : OutItem) (rest : List OutItem) (h : s.seq = .encOut)
      (hq : s.work.outq = it :: rest) (hl : it.last = false) : Listed s .dout .encOut .noError
  | encEnd (it : OutItem) (rest : List OutItem) (h : s.seq = .encOut)
      (hq : s.work.outq = it :: rest) (hl : it.last = true) : Listed s .dout .idle .noError
  | token (b : Byte) (h : s.seq = .decDims) (hn : s.work.tok.length < 11) :
      Listed s (.din b false) .decDims .noError
  | tokenLong (b : Byte) (l : Bool) (h : s.seq = .decDims) (hn : s.work.tok.length = 11) :
      Listed s (.din b l) .error .malformedFrame
  | tokenGood (b : Byte) (d : Nat × Nat) (h : s.seq = .decDims) (hn : s.work.tok.length < 11)
      (hp : parseToken (s.work.tok ++ [b]) = some d) : Listed s (.din b true) .decSum .noError
  | tokenBad (b : Byte) (h : s.seq = .decDims) (hn : s.work.tok.length < 11)
      (hp : parseToken (s.work.tok ++ [b]) = none) : Listed s (.din b true) .error .malformedFrame
  | eosEarly (h : s.seq = .decDims ∨ s.seq = .decSum) :
      Listed s (.cmd 0x00000021) .error .malformedFrame
  | checksum (b : Byte) (l : Bool) (h : s.seq = .decSum) (hn : s.work.sum.length + 1 < 32) :
      Listed s (.din b l) .decSum .noError
  | checksumLast (b : Byte) (l : Bool) (h : s.seq = .decSum) (hn : s.work.sum.length + 1 = 32) :
      Listed s (.din b l) .decCt .noError
  | ciphertext (b : Byte) (l : Bool) (h : s.seq = .decCt) (hn : s.work.buf.length < s.params.bufBytes) :
      Listed s (.din b l) .decCt .noError
  | ciphertextFull (b : Byte) (l : Bool) (h : s.seq = .decCt)
      (hn : s.work.buf.length = s.params.bufBytes) : Listed s (.din b l) .error .capacity
  | eos (h : s.seq = .decCt) : Listed s (.cmd 0x00000021) .decProc .noError
  | decComplete (h : s.seq = .decProc) : Listed s .engine (decOutcome s).1 (decOutcome s).2
  | decPop (it : OutItem) (rest : List OutItem) (h : s.seq = .decOut)
      (hq : s.work.outq = it :: rest) (hl : it.last = false) : Listed s .dout .decOut .noError
  | decEnd (it : OutItem) (rest : List OutItem) (h : s.seq = .decOut)
      (hq : s.work.outq = it :: rest) (hl : it.last = true) : Listed s .dout .idle .noError

/-- Several instructions one after another, stopping at the first that gives no next state. -/
def execAll : List Instr → State → Host.Outcome State Fault Refusal
  | [], s => .next s
  | i :: is, s =>
    match exec i s with
    | .next t => execAll is t
    | .fault r => .fault r
    | .refused r => .refused r

/-- R218: a received byte string as DIN writes: LAST = 1 on the final byte of the token only. -/
def frameWrites (w h : Nat) (c : List Byte) : List Instr :=
  (segmentItems false (formatToken w h)).map (fun it => .din it.byte it.segEnd 0) ++
    (checksumText c ++ c).map (fun b => .din b false 0)

/-- R216, R221: output items as the DIN writes of the receiving side, SEG_END carried over as LAST. -/
def itemWrites (items : List OutItem) : List Instr :=
  items.map (fun it => .din it.byte it.segEnd 0)

end Sys2Proof.Safety
end

