-- ==== Sys2Proof/Certificates/Slice0/Obligations.lean ====
section
/-! DEFINITION. The statements for the provers. Each formalises rules of spec/ as its docstring says; a statement that
rests on a choice of the model's names the log entry. -/

open Sys2Proof Sys2Proof.Machine Sys2Proof.Safety

/-! ### Encoding -/

/-- R100 to R107: at every window base, decoding the access that encodes an instruction gives the instruction back, with
every operand at every value; and an access that decodes to an instruction is that instruction's encoding, so that no bit
of it is lost. -/
def Obligations.DecodeAndEncodeAgree : Prop :=
  (∀ (base : Nat) (i : Instr), i.wf = true →
    decodeAccess base ((encode i).toAccess base) = some i) ∧
  (∀ (base : Nat) (a : Access) (i : Instr),
    decodeAccess base a = some i → a = (encode i).toAccess base)

/-- 10_state.md section 2 and R40: the register map is the spec's table; it is one to one, its offsets are aligned and
below 0x80, and the aligned offsets of the window without a register are 0x3C and those from 0x80. -/
def Obligations.RegisterMapIsOneToOne : Prop :=
  (Reg.id.offset = 0x00 ∧ Reg.version.offset = 0x04 ∧ Reg.capacity.offset = 0x08 ∧
    Reg.ctrl.offset = 0x0C ∧ Reg.cmd.offset = 0x10 ∧ Reg.status.offset = 0x14 ∧
    Reg.intStatus.offset = 0x18 ∧ Reg.intEnable.offset = 0x1C ∧ Reg.keylen.offset = 0x20 ∧
    Reg.dim.offset = 0x24 ∧ Reg.rxDim.offset = 0x28 ∧ Reg.ptlen.offset = 0x2C ∧
    Reg.ctlen.offset = 0x30 ∧ Reg.din.offset = 0x34 ∧ Reg.dout.offset = 0x38 ∧
    (∀ k : Fin 8, (Reg.key k).offset = 0x40 + 4 * k.val) ∧
    (∀ k : Fin 4, (Reg.iv k).offset = 0x60 + 4 * k.val) ∧
    (∀ k : Fin 4, (Reg.digest k).offset = 0x70 + 4 * k.val)) ∧
  (∀ r : Reg, regAt r.offset = some r ∧ r.offset % 4 = 0 ∧ r.offset < 0x80) ∧
  (∀ (off : Nat) (r : Reg), regAt off = some r → off = r.offset) ∧
  (∀ off : Nat, off < 256 → off % 4 = 0 → (regAt off = none ↔ off = 0x3C ∨ 0x80 ≤ off))

/-- R102, R104, R105: words written out from the encodings decode to their instructions. -/
def Obligations.WrittenOutWordsDecode : Prop :=
  decode (.write 0x10 0b00000000000000000000000000000000) = .ok .nop ∧
  decode (.write 0x10 0b00000000000000000000000000000001) = .ok .abort ∧
  decode (.write 0x10 0b00000000000000000000000000010000) = .ok .encBegin ∧
  decode (.write 0x10 0b00000000000000000000000000010001) = .ok .encFinal ∧
  decode (.write 0x10 0b00000000000000000000000000100000) = .ok .decBegin ∧
  decode (.write 0x10 0b00000000000000000000000000100001) = .ok .rxEos ∧
  decode (.write 0x34 0b11111111111111111111111101000001) = .ok (.din 0x41 true 0x7FFFFF) ∧
  decode (.read 0x38) = .ok .dout

/-- R103, R242, R266: which CMD words are illegal, and what one does. -/
def Obligations.IllegalCommandWords : Prop :=
  (∀ v : Word, commandOf v = none ↔
    v.extractLsb' 8 24 ≠ 0 ∨
      v.extractLsb' 0 8 ∉ [(0x00 : Byte), 0x01, 0x10, 0x11, 0x20, 0x21]) ∧
  (∀ (s : State) (v : Word), commandOf v = none →
    (s.seq ≠ .error → ∃ t, busOp (.write 0x10 v) s = .next t ∧ ErrorEntry .illegalOpcode s t) ∧
    (s.seq = .error → busOp (.write 0x10 v) s = .next s))

/-! ### The step -/

/-- R72, R100: where the next event is an access that decodes to a well-formed instruction, the step takes the event off
the queue and is that instruction's execution. -/
def Obligations.StepRunsTheDecodedInstruction : Prop :=
  ∀ (s : State) (a : Access) (rest : List Event) (i : Instr),
    s.queue = .access a :: rest → decodeAccess s.params.base a = some i → i.wf = true →
    step s = exec i { s with queue := rest }

/-- R9, R79, with the queue of notes/assumptions/2.md: an engine event takes the engine's step, and with nothing to come
a pending completion is taken. That an engine event with nothing pending changes nothing (the first and third clauses
together) is the model's choice, notes/assumptions/20.md. -/
def Obligations.StepTakesTheEngine : Prop :=
  (∀ (s : State) (rest : List Event), s.queue = .engine :: rest →
    step s = .next (engineStep { s with queue := rest })) ∧
  (∀ s : State, s.queue = [] → step s = .next (engineStep s)) ∧
  (∀ s : State, s.seq.busy = false → engineStep s = s) ∧
  (∀ s : State, (engineStep s).seq.busy = false)

/-- R73: an access in the window that is not an aligned 32-bit access is a fault of the host step, with 0 as the data of
a refused read (what the bus error does to a run is notes/assumptions/8.md). An access outside the window is a fault of
its own: the model's choice, notes/assumptions/7.md. -/
def Obligations.RefusedAccessesFault : Prop :=
  ∀ (s : State) (a : Access) (rest : List Event) (addr nbits : Nat),
    s.queue = .access a :: rest → (a = .read addr nbits ∨ ∃ v, a = .write addr nbits v) →
    (s.params.base ≤ addr → addr < s.params.base + 256 →
      (nbits ≠ 32 ∨ (addr - s.params.base) % 4 ≠ 0) → step s = .fault (.busError a 0)) ∧
    (addr < s.params.base ∨ s.params.base + 256 ≤ addr → step s = .fault (.notDecoded a))

/-- R72, R73: every aligned 32-bit access in the window gives a next state, in every state, and the step is the read or
write of the offset the access has in the window. -/
def Obligations.EveryAlignedAccessIsTaken : Prop :=
  (∀ (s : State) (a : Access) (rest : List Event),
    s.queue = .access a :: rest → a.wf s.params.base = true → ∃ t, step s = .next t) ∧
  (∀ (s : State) (rest : List Event) (off : Nat), off < 256 → off % 4 = 0 →
    (s.queue = .access (.read (s.params.base + off) 32) :: rest →
      step s = busOp (.read off) { s with queue := rest }) ∧
    (∀ v : Word, s.queue = .access (.write (s.params.base + off) 32 v) :: rest →
      step s = busOp (.write off v) { s with queue := rest }))

/-- R340, R341: reset sets every piece of the ACFE's state to its reset value, in every state and for every choice of
parameters, and each register then reads its reset value and irq is 0. The model's own three fields are kept
(notes/assumptions/9.md). -/
def Obligations.ResetSetsEveryValue : Prop :=
  (∀ (s : State) (rest : List Event), s.queue = .reset :: rest →
    step s = .next
      { params := s.params
        cfg := { ivsrc := false, doneEn := false, errEn := false, keylen := 0, width := 0, height := 0,
                 keyreg := Vector.replicate 32 0, ivreg := Vector.replicate 16 0 }
        res := { rxWidth := 0, rxHeight := 0, ptlen := 0, ctlen := 0, dg := Vector.replicate 16 0 }
        work := { wkey := [], w := none, wiv := Vector.replicate 16 0, ww := 0, wh := 0,
                  pt := [], tok := [], sum := [], buf := [], outq := [] }
        seq := .idle
        errc := .noError
        intDone := false
        intErr := false
        queue := rest
        rdata := s.rdata
        draws := s.draws }) ∧
  (∀ p : Params,
    readReg .id (State.resetWith p) = 0x41434645 ∧
    readReg .version (State.resetWith p) = 0x00010000 ∧
    readReg .capacity (State.resetWith p) = BitVec.ofNat 32 p.bufBytes ∧
    (∀ r : Reg, r ≠ .id → r ≠ .version → r ≠ .capacity → readReg r (State.resetWith p) = 0) ∧
    irq (State.resetWith p) = false)

/-! ### Commands -/

/-- R240: NOP does nothing, in every state. -/
def Obligations.NopDoesNothing : Prop :=
  ∀ s : State, exec .nop s = .next s

/-- R241, R306: ABORT, in every state, erases every working item, clears ERRC and returns to IDLE; INT_STATUS and every
register are kept, and no completion is left pending. -/
def Obligations.AbortReturnsToIdle : Prop :=
  ∀ s : State, ∃ t, exec .abort s = .next t ∧
    t = { s with
      work := { wkey := [], w := none, wiv := Vector.replicate 16 0, ww := 0, wh := 0,
                pt := [], tok := [], sum := [], buf := [], outq := [] }
      errc := .noError
      seq := .idle } ∧
    engineStep t = t

/-- R250, R251, with the free draw of notes/assumptions/4.md: ENC_BEGIN in IDLE with a legal key length, positive dimensions and a ciphertext that fits: the key, its
schedule, the IV and the dimensions are latched and the results cleared. With IVSRC = 1 the IV is the draw, whatever it
is, and IVREG holds it. -/
def Obligations.EncBeginLatchesItsOperands : Prop :=
  ∀ (s : State) (k : List Byte) (iv : Vector Byte 16), s.seq = .idle →
    (s.cfg.keylen = 16 ∨ s.cfg.keylen = 24 ∨ s.cfg.keylen = 32) →
    s.cfg.width ≠ 0 → s.cfg.height ≠ 0 →
    16 + 16 * (3 * s.cfg.width.toNat * s.cfg.height.toNat / 16 + 1) ≤ s.params.bufBytes →
    k = s.cfg.keyreg.toList.take s.cfg.keylen.toNat →
    iv = (if s.cfg.ivsrc then Config.draw16 s.draws else s.cfg.ivreg) →
    exec .encBegin s = .next
      { s with
        seq := .encIn
        cfg := { s.cfg with ivreg := iv }
        draws := if s.cfg.ivsrc then s.draws + 1 else s.draws
        res := { rxWidth := 0, rxHeight := 0, ptlen := 0, ctlen := 0, dg := Vector.replicate 16 0 }
        work := { s.work with
          wkey := k, w := some (keyExpansion k), wiv := iv, ww := s.cfg.width, wh := s.cfg.height,
          pt := [], buf := [], outq := [] } }

/-- R250, R308: what ENC_BEGIN checks in IDLE, in order, and that a failed check keeps nothing. -/
def Obligations.EncBeginChecksInOrder : Prop :=
  ∀ s : State, s.seq = .idle →
    (¬ (s.cfg.keylen = 16 ∨ s.cfg.keylen = 24 ∨ s.cfg.keylen = 32) →
      ∃ t, exec .encBegin s = .next t ∧ ErrorEntry .badKeyLength s t) ∧
    (s.cfg.keylen = 16 ∨ s.cfg.keylen = 24 ∨ s.cfg.keylen = 32 →
      (s.cfg.width = 0 ∨ s.cfg.height = 0 →
        ∃ t, exec .encBegin s = .next t ∧ ErrorEntry .badDimensions s t) ∧
      (s.cfg.width ≠ 0 → s.cfg.height ≠ 0 →
        s.params.bufBytes < 16 + 16 * (3 * s.cfg.width.toNat * s.cfg.height.toNat / 16 + 1) →
        ∃ t, exec .encBegin s = .next t ∧ ErrorEntry .capacity s t))

/-- R255: ENC_FINAL in ENC_IN: with exactly 3·WW·WH bytes written the engine takes over and nothing else changes;
otherwise SIZE_MISMATCH. -/
def Obligations.EncFinalChecksTheLength : Prop :=
  ∀ s : State, s.seq = .encIn →
    (s.work.pt.length = 3 * s.work.ww.toNat * s.work.wh.toNat →
      exec .encFinal s = .next { s with seq := .encProc }) ∧
    (s.work.pt.length ≠ 3 * s.work.ww.toNat * s.work.wh.toNat →
      ∃ t, exec .encFinal s = .next t ∧ ErrorEntry .sizeMismatch s t)

/-- R257: DEC_BEGIN in IDLE: with a legal key length the key is latched and the results cleared, DIM, CTRL and IVREG
untouched; otherwise BAD_KEY_LENGTH. -/
def Obligations.DecBeginLatchesTheKey : Prop :=
  ∀ (s : State) (k : List Byte), s.seq = .idle →
    k = s.cfg.keyreg.toList.take s.cfg.keylen.toNat →
    (s.cfg.keylen = 16 ∨ s.cfg.keylen = 24 ∨ s.cfg.keylen = 32 →
      exec .decBegin s = .next
        { s with
          seq := .decDims
          res := { rxWidth := 0, rxHeight := 0, ptlen := 0, ctlen := 0, dg := Vector.replicate 16 0 }
          work := { s.work with
            wkey := k, w := some (keyExpansion k), tok := [], sum := [], buf := [], outq := [] } }) ∧
    (¬ (s.cfg.keylen = 16 ∨ s.cfg.keylen = 24 ∨ s.cfg.keylen = 32) →
      ∃ t, exec .decBegin s = .next t ∧ ErrorEntry .badKeyLength s t)

/-- R259, R219 (c) and (d): RX_EOS starts the engine in DEC_CT, whatever the length of BUF, and is MALFORMED_FRAME in
DEC_DIMS and DEC_SUM. -/
def Obligations.RxEosEndsTheStream : Prop :=
  ∀ s : State,
    (s.seq = .decCt → exec .rxEos s = .next { s with seq := .decProc }) ∧
    (s.seq = .decDims ∨ s.seq = .decSum →
      ∃ t, exec .rxEos s = .next t ∧ ErrorEntry .malformedFrame s t)

/-- R242: outside ERROR, a command in a state its row of Legal(op) does not list raises SEQUENCE_ERROR; NOP and ABORT are
legal everywhere. -/
def Obligations.CommandsOutOfSequence : Prop :=
  ∀ s : State, s.seq ≠ .error →
    (s.seq ≠ .idle → (∃ t, exec .encBegin s = .next t ∧ ErrorEntry .sequenceError s t) ∧
      ∃ t, exec .decBegin s = .next t ∧ ErrorEntry .sequenceError s t) ∧
    (s.seq ≠ .encIn → ∃ t, exec .encFinal s = .next t ∧ ErrorEntry .sequenceError s t) ∧
    (s.seq ≠ .decDims → s.seq ≠ .decSum → s.seq ≠ .decCt →
      ∃ t, exec .rxEos s = .next t ∧ ErrorEntry .sequenceError s t)

/-- R266, R305, R307: in ERROR every command but ABORT and every DIN write changes nothing, and a DOUT read returns 0
when OUTQ is empty, as it is there (R59); no event but the CMD word 0x00000001 and reset leaves ERROR or changes ERRC,
and none brings anything back into the working state. -/
def Obligations.ErrorLastsUntilAbort : Prop :=
  (∀ (s : State) (i : Instr), s.seq = .error → i ≠ .abort → i ≠ .dout → exec i s = .next s) ∧
  (∀ s : State, s.seq = .error → s.work.outq = [] → exec .dout s = .next { s with rdata := 0 }) ∧
  (∀ (s t : State) (e : Event) (rest : List Event),
    s.seq = .error → s.work = Working.empty → s.queue = e :: rest → step s = .next t →
    e ≠ .reset → (∀ n, e ≠ .access (.write (s.params.base + 0x10) n 0x00000001)) →
    t.seq = .error ∧ t.errc = s.errc ∧ t.work = Working.empty)

/-! ### Data ports -/

/-- R264 in ENC_IN: a DIN write below NPT appends its byte and counts it in PTLEN; at NPT it raises SIZE_MISMATCH. -/
def Obligations.DinTakesPlaintext : Prop :=
  ∀ (s : State) (b : Byte) (l : Bool) (x : BitVec 23), s.seq = .encIn →
    (s.work.pt.length < 3 * s.work.ww.toNat * s.work.wh.toNat →
      exec (.din b l x) s = .next
        { s with
          work := { s.work with pt := s.work.pt ++ [b] }
          res := { s.res with ptlen := BitVec.ofNat 32 (s.work.pt.length + 1) } }) ∧
    (s.work.pt.length = 3 * s.work.ww.toNat * s.work.wh.toNat →
      ∃ t, exec (.din b l x) s = .next t ∧ ErrorEntry .sizeMismatch s t)

/-- R264 in DEC_DIMS, R219 (a) and (b), R222: token bytes are gathered; the byte with LAST ends the token, which is
accepted if it parses; a twelfth byte or a token that does not parse is MALFORMED_FRAME. -/
def Obligations.DinTakesTheToken : Prop :=
  ∀ (s : State) (b : Byte) (x : BitVec 23), s.seq = .decDims →
    (s.work.tok.length = 11 → ∀ l, ∃ t, exec (.din b l x) s = .next t ∧ ErrorEntry .malformedFrame s t) ∧
    (s.work.tok.length ≠ 11 →
      exec (.din b false x) s = .next { s with work := { s.work with tok := s.work.tok ++ [b] } } ∧
      (parseToken (s.work.tok ++ [b]) = none →
        ∃ t, exec (.din b true x) s = .next t ∧ ErrorEntry .malformedFrame s t) ∧
      (∀ w h : Nat, parseToken (s.work.tok ++ [b]) = some (w, h) →
        exec (.din b true x) s = .next
          { s with
            seq := .decSum
            work := { s.work with tok := [] }
            res := { s.res with rxWidth := BitVec.ofNat 16 w, rxHeight := BitVec.ofNat 16 h } }))

/-- R264 in DEC_SUM: a DIN write appends its byte whatever its LAST bit; the 32nd byte moves on to DEC_CT. -/
def Obligations.DinTakesTheChecksum : Prop :=
  ∀ (s : State) (b : Byte) (l : Bool) (x : BitVec 23), s.seq = .decSum →
    (s.work.sum.length ≠ 31 →
      exec (.din b l x) s = .next { s with work := { s.work with sum := s.work.sum ++ [b] } }) ∧
    (s.work.sum.length = 31 →
      exec (.din b l x) s = .next
        { s with seq := .decCt, work := { s.work with sum := s.work.sum ++ [b] } })

/-- R264 in DEC_CT, R358: a DIN write appends its byte and counts it in CTLEN; with BUF full it raises CAPACITY. -/
def Obligations.DinTakesCiphertext : Prop :=
  ∀ (s : State) (b : Byte) (l : Bool) (x : BitVec 23), s.seq = .decCt →
    (s.work.buf.length ≠ s.params.bufBytes →
      exec (.din b l x) s = .next
        { s with
          work := { s.work with buf := s.work.buf ++ [b] }
          res := { s.res with ctlen := BitVec.ofNat 32 (s.work.buf.length + 1) } }) ∧
    (s.work.buf.length = s.params.bufBytes →
      ∃ t, exec (.din b l x) s = .next t ∧ ErrorEntry .capacity s t)

/-- R264, R351, R361: a DIN write where no byte is accepted raises SEQUENCE_ERROR. -/
def Obligations.DinOutOfSequence : Prop :=
  ∀ (s : State) (b : Byte) (l : Bool) (x : BitVec 23),
    (s.seq = .idle ∨ s.seq = .encProc ∨ s.seq = .encOut ∨ s.seq = .decProc ∨ s.seq = .decOut) →
    ∃ t, exec (.din b l x) s = .next t ∧ ErrorEntry .sequenceError s t

/-- R104, R221: bits [31:9] of a DIN word have no effect in any state, and LAST has one in DEC_DIMS only. -/
def Obligations.DinIgnoredBits : Prop :=
  ∀ (s : State) (b : Byte) (l m : Bool) (x y : BitVec 23),
    exec (.din b l x) s = exec (.din b l y) s ∧
    (s.seq ≠ .decDims → exec (.din b l x) s = exec (.din b m x) s)

/-- R265, R36: a DOUT read with OUTQ empty returns 0 and does nothing else; otherwise it returns the head item and
removes it, and the item with END ends the transfer. -/
def Obligations.DoutPopsOneItem : Prop :=
  ∀ s : State,
    (s.work.outq = [] → exec .dout s = .next { s with rdata := 0 }) ∧
    (∀ (it : OutItem) (rest : List OutItem), s.work.outq = it :: rest →
      (it.last = false → exec .dout s = .next
        { s with rdata := it.toWord, work := { s.work with outq := rest } }) ∧
      (it.last = true → exec .dout s = .next
        { s with
          rdata := it.toWord
          seq := .idle
          work := { s.work with
            outq := rest, buf := [], wkey := [], w := none, wiv := Vector.replicate 16 0,
            ww := 0, wh := 0 } }))

/-- R105, R36: the fields of the word a DOUT read returns, and its value zext_32(b) + 2^8 + s·2^9 + e·2^10. -/
def Obligations.DoutWordFields : Prop :=
  ∀ it : OutItem,
    it.toWord.extractLsb' 0 8 = it.byte ∧ it.toWord.getLsbD 8 = true ∧
    it.toWord.getLsbD 9 = it.segEnd ∧ it.toWord.getLsbD 10 = it.last ∧
    it.toWord.extractLsb' 11 21 = 0 ∧
    it.toWord.toNat = it.byte.toNat + 2 ^ 8 + it.segEnd.toNat * 2 ^ 9 + it.last.toNat * 2 ^ 10

/-! ### The engine -/

/-- R256: the completion of an encryption: BUF, CTLEN, DG, OUTQ, PT, STATE and INT_STATUS.DONE, and nothing else. -/
def Obligations.EngineCompletesEncryption : Prop :=
  ∀ (s : State) (c : List Byte), s.seq = .encProc →
    c = encrypt s.work.wkey s.work.wiv.toList s.work.pt →
    engineStep s =
      { s with
        seq := .encOut
        intDone := true
        res := { s.res with ctlen := BitVec.ofNat 32 c.length, dg := md5 c }
        work := { s.work with
          buf := c, pt := [], outq := serializerQueue s.work.ww.toNat s.work.wh.toNat c } }

/-- R256, R50: in every state the invariants allow, the ciphertext of the completion is
WIV ‖ CBC_Enc(W, WIV, Pad(PT)) with W the schedule latched at ENC_BEGIN. -/
def Obligations.CompletionUsesTheLatchedSchedule : Prop :=
  ∀ s : State, SequencerInv s → s.seq = .encProc →
    ∃ w, s.work.w = some w ∧
      (engineStep s).work.buf = s.work.wiv.toList ++ cbcEnc w s.work.wiv.toList (pad s.work.pt)

/-- R261, R262, R308, R13: the completion of a decryption: the checks in order, the digest kept on every outcome, PTLEN
kept from valid padding on, and the release of the plaintext when every check passes. -/
def Obligations.EngineCompletesDecryption : Prop :=
  ∀ s : State, s.seq = .decProc →
    (s.work.sum ≠ hexText (md5 s.work.buf).toList →
      ErrorEntry .integrityFailure { s with res := { s.res with dg := md5 s.work.buf } } (engineStep s)) ∧
    (s.work.sum = hexText (md5 s.work.buf).toList →
      (decrypt s.work.wkey s.work.buf = none →
        ErrorEntry .badKeyOrCorrupt { s with res := { s.res with dg := md5 s.work.buf } }
          (engineStep s)) ∧
      (∀ r : List Byte, decrypt s.work.wkey s.work.buf = some r →
        (r.length ≠ 3 * s.res.rxWidth.toNat * s.res.rxHeight.toNat →
          ErrorEntry .sizeMismatch
            { s with res := { s.res with dg := md5 s.work.buf, ptlen := BitVec.ofNat 32 r.length } }
            (engineStep s)) ∧
        (r.length = 3 * s.res.rxWidth.toNat * s.res.rxHeight.toNat →
          engineStep s =
            { s with
              seq := .decOut
              intDone := true
              res := { s.res with dg := md5 s.work.buf, ptlen := BitVec.ofNat 32 r.length }
              work := { s.work with outq := plaintextQueue r, buf := [], sum := [] } })))

/-- R263, which the spec marks as derived: output becomes readable in a decryption only by the completion whose checks all pass, and then it is the whole
plaintext; in ERROR nothing is readable. -/
def Obligations.NoPartialPlaintext : Prop :=
  ∀ s t : State, SequencerInv s → step s = .next t →
    (t.seq = .decOut → s.seq ≠ .decOut → s.seq = .decProc ∧
      s.work.sum = hexText (md5 s.work.buf).toList ∧
      ∃ r, decrypt s.work.wkey s.work.buf = some r ∧
        r.length = 3 * s.res.rxWidth.toNat * s.res.rxHeight.toNat ∧
        t.work.outq = plaintextQueue r) ∧
    (t.seq = .error → readReg .dout t = 0)

/-! ### Registers, status and the interrupt -/

/-- R21, R76, R267: a read of any register but DOUT returns the register's word and changes nothing else; a write to a
read-only register changes nothing. R24, R26, R32 to R35: in every state CAPACITY reads BUF_BYTES, CMD and DIN read 0, and
RX_DIM, PTLEN and CTLEN read what they hold; no step changes BUF_BYTES. -/
def Obligations.PlainRegisterAccesses : Prop :=
  (∀ (s : State) (rest : List Event) (r : Reg), r ≠ .dout →
    s.queue = .access (.read (s.params.base + r.offset) 32) :: rest →
    step s = .next { s with queue := rest, rdata := readReg r { s with queue := rest } }) ∧
  (∀ (s : State) (r : Reg) (v : Word),
    (r = .id ∨ r = .version ∨ r = .capacity ∨ r = .status ∨ r = .rxDim ∨ r = .ptlen ∨ r = .ctlen ∨
      r = .dout ∨ ∃ k, r = .digest k) →
    busOp (.write r.offset v) s = .next s) ∧
  (∀ s : State,
    busOp (.read 0x08) s = .next { s with rdata := BitVec.ofNat 32 s.params.bufBytes } ∧
    busOp (.read 0x10) s = .next { s with rdata := 0 } ∧
    busOp (.read 0x28) s = .next { s with rdata := s.res.rxHeight ++ s.res.rxWidth } ∧
    busOp (.read 0x2C) s = .next { s with rdata := s.res.ptlen } ∧
    busOp (.read 0x30) s = .next { s with rdata := s.res.ctlen } ∧
    busOp (.read 0x34) s = .next { s with rdata := 0 }) ∧
  (∀ s t : State, step s = .next t → t.params = s.params)

/-- R22, R23: ID and VERSION read their constants in every state and ignore writes, so that they never change. -/
def Obligations.IdentityNeverChanges : Prop :=
  ∀ (s : State) (rest : List Event) (v : Word),
    (s.queue = .access (.read (s.params.base + 0x00) 32) :: rest →
      step s = .next { s with queue := rest, rdata := 0x41434645 }) ∧
    (s.queue = .access (.read (s.params.base + 0x04) 32) :: rest →
      step s = .next { s with queue := rest, rdata := (0x0001 : BitVec 16) ++ (0x0000 : BitVec 16) }) ∧
    (s.queue = .access (.write (s.params.base + 0x00) 32 v) :: rest ∨
      s.queue = .access (.write (s.params.base + 0x04) 32 v) :: rest →
      step s = .next { s with queue := rest })

/-- R40: a reserved offset reads as zero, ignores writes, and raises no error. -/
def Obligations.ReservedOffsetsAreInert : Prop :=
  ∀ (s : State) (rest : List Event) (off : Nat) (v : Word),
    off < 256 → off % 4 = 0 → (off = 0x3C ∨ 0x80 ≤ off) →
    (s.queue = .access (.read (s.params.base + off) 32) :: rest →
      step s = .next { s with queue := rest, rdata := 0 }) ∧
    (s.queue = .access (.write (s.params.base + off) 32 v) :: rest →
      step s = .next { s with queue := rest })

/-- R267, R352 (the latter marked by the spec as derived), R83: a write to a configuration register changes only
configuration, in every state; and but for the BEGIN commands, every instruction and the engine's step do the same
whatever the configuration holds, and leave it as it is. -/
def Obligations.ConfigurationIsLatchedAtBegin : Prop :=
  (∀ (s t : State) (r : Reg) (v : Word), r ≠ .cmd → r ≠ .din → r ≠ .intStatus →
    busOp (.write r.offset v) s = .next t →
    t = { s with cfg := t.cfg } ∧ engineStep t = { engineStep s with cfg := t.cfg }) ∧
  (∀ (s t : State) (c : ConfigRegs) (i : Instr), i ≠ .encBegin → i ≠ .decBegin →
    exec i s = .next t →
    t.cfg = s.cfg ∧ exec i { s with cfg := c } = .next { t with cfg := c }) ∧
  (∀ (s : State) (c : ConfigRegs),
    (engineStep s).cfg = s.cfg ∧ engineStep { s with cfg := c } = { engineStep s with cfg := c })

/-- R25, R29, R30, R31: what a host's write to a configuration register stores, with nothing else changed, and what the
read that follows returns: IVSRC is hardwired 0 without a random source, KEYLEN keeps 6 bits, INT_ENABLE two, DIM all 32;
reserved bits read 0. -/
def Obligations.ConfigurationReadsBack : Prop :=
  ∀ (s : State) (v : Word),
    (∃ t, busOp (.write 0x0C v) s = .next t ∧
      t = { s with cfg := { s.cfg with ivsrc := s.params.hasTrng && v.getLsbD 0 } } ∧
      busOp (.read 0x0C) t =
        .next { t with rdata := if s.params.hasTrng then v &&& 0x00000001 else 0 }) ∧
    (∃ t, busOp (.write 0x1C v) s = .next t ∧
      t = { s with cfg := { s.cfg with doneEn := v.getLsbD 0, errEn := v.getLsbD 1 } } ∧
      busOp (.read 0x1C) t = .next { t with rdata := v &&& 0x00000003 }) ∧
    (∃ t, busOp (.write 0x20 v) s = .next t ∧
      t = { s with cfg := { s.cfg with keylen := v.extractLsb' 0 6 } } ∧
      busOp (.read 0x20) t = .next { t with rdata := v &&& 0x0000003F }) ∧
    (∃ t, busOp (.write 0x24 v) s = .next t ∧
      t = { s with cfg := { s.cfg with
        width := v.extractLsb' 0 16, height := v.extractLsb' 16 16 } } ∧
      busOp (.read 0x24) t = .next { t with rdata := v })

/-- R38, R39, R74: a host's write to IVk stores the four bytes of its lanes, lowest lane first, and changes nothing else;
a read of IVk then returns the word written, and the other IV registers read as before. A read of DIGESTk returns byte
4k+j of DG in bits [8j+7:8j]. -/
def Obligations.IvAndDigestRegistersHoldLanes : Prop :=
  (∀ (s : State) (k : Fin 4) (v : Word), ∃ (t : State) (iv : Vector Byte 16),
    busOp (.write (0x60 + 4 * k.val) v) s = .next t ∧
    t = { s with cfg := { s.cfg with ivreg := iv } } ∧
    (∀ (n : Nat) (h : n < 16),
      iv[n] = if n / 4 = k.val then v.extractLsb' (8 * (n % 4)) 8 else s.cfg.ivreg[n]) ∧
    busOp (.read (0x60 + 4 * k.val)) t = .next { t with rdata := v } ∧
    (∀ m : Fin 4, m ≠ k → ∃ w : Word,
      busOp (.read (0x60 + 4 * m.val)) s = .next { s with rdata := w } ∧
      busOp (.read (0x60 + 4 * m.val)) t = .next { t with rdata := w })) ∧
  (∀ (s : State) (k : Fin 4), ∃ w : Word,
    busOp (.read (0x70 + 4 * k.val)) s = .next { s with rdata := w } ∧
    ∀ j : Fin 4, w.extractLsb' (8 * j.val) 8 = s.res.dg[4 * k.val + j.val]'(by omega))

/-- R37, R74: a host's write to KEYk stores the four bytes of its lanes, lowest lane first, and changes nothing else; a
read of KEYk returns 0 and changes nothing else. -/
def Obligations.KeyRegistersHoldLanes : Prop :=
  ∀ (s : State) (k : Fin 8) (v : Word),
    (∃ key : Vector Byte 32,
      busOp (.write (0x40 + 4 * k.val) v) s = .next { s with cfg := { s.cfg with keyreg := key } } ∧
      ∀ (n : Nat) (h : n < 32),
        key[n] = if n / 4 = k.val then v.extractLsb' (8 * (n % 4)) 8 else s.cfg.keyreg[n]) ∧
    busOp (.read (0x40 + 4 * k.val)) s = .next { s with rdata := 0 }

/-- R37: the key cannot be read back: two machines that differ in KEYREG alone answer every access that is no BEGIN
command with the same data and go on differing in KEYREG alone. -/
def Obligations.KeyCannotBeReadBack : Prop :=
  ∀ (s : State) (key : Vector Byte 32) (op : BusOp) (t u : State),
    decode op ≠ .ok .encBegin → decode op ≠ .ok .decBegin →
    busOp op s = .next t →
    busOp op { s with cfg := { s.cfg with keyreg := key } } = .next u →
    u = { t with cfg := { t.cfg with keyreg := u.cfg.keyreg } }

/-- R27: the fields of STATUS, each computed from the state at the time of the read. -/
def Obligations.StatusFields : Prop :=
  ∀ s : State,
    (readReg .status s).extractLsb' 0 4 = s.seq.code ∧
    ((readReg .status s).getLsbD 4 = true ↔ s.seq = .encProc ∨ s.seq = .decProc) ∧
    ((readReg .status s).getLsbD 5 = true ↔
      s.seq = .encIn ∨ s.seq = .decDims ∨ s.seq = .decSum ∨ s.seq = .decCt) ∧
    ((readReg .status s).getLsbD 6 = true ↔ s.work.outq ≠ []) ∧
    (readReg .status s).getLsbD 7 = false ∧
    (readReg .status s).extractLsb' 8 4 = s.errc.code ∧
    (readReg .status s).extractLsb' 12 20 = 0

/-- R28: a write of v to INT_STATUS clears each bit that v has 1 in and leaves the other, and nothing else changes; a
read returns DONE in bit 0, ERR in bit 1 and zeros. -/
def Obligations.IntStatusIsWriteOneToClear : Prop :=
  ∀ (s : State) (v : Word),
    busOp (.write 0x18 v) s = .next
      { s with
        intDone := if v.getLsbD 0 then false else s.intDone
        intErr := if v.getLsbD 1 then false else s.intErr } ∧
    (readReg .intStatus s).getLsbD 0 = s.intDone ∧ (readReg .intStatus s).getLsbD 1 = s.intErr ∧
    (readReg .intStatus s).extractLsb' 2 30 = 0

/-- R28, R311, R357: no step clears an INT_STATUS bit but a host write to INT_STATUS and a reset. -/
def Obligations.InterruptBitsAreSticky : Prop :=
  ∀ s t : State, step s = .next t →
    (∀ (rest : List Event) (v : Word) (n : Nat),
      s.queue ≠ .access (.write (s.params.base + 0x18) n v) :: rest) →
    (∀ rest : List Event, s.queue ≠ .reset :: rest) →
    (s.intDone = true → t.intDone = true) ∧ (s.intErr = true → t.intErr = true)

/-- R310: irq, for every state. -/
def Obligations.InterruptOutput : Prop :=
  ∀ s : State, irq s = true ↔
    ((readReg .intStatus s).getLsbD 0 = true ∧ (readReg .intEnable s).getLsbD 0 = true) ∨
    ((readReg .intStatus s).getLsbD 1 = true ∧ (readReg .intEnable s).getLsbD 1 = true)

/-! ### Invariants and the whole sequencer -/

/-- R340: the reset state, with any legal parameters and any events to come, has the invariants. -/
def Obligations.ResetHasTheInvariants : Prop :=
  ∀ (p : Params) (events : List Event), p.wf = true → SequencerInv { State.resetWith p with queue := events }

/-- R59 (marked by the spec as its own inference) and the bounds of R8, R25, R32 to R34 and R49 to R57: every step keeps
the invariants, from every state that has them. -/
def Obligations.EveryStepKeepsTheInvariants : Prop :=
  ∀ s t : State, SequencerInv s → step s = .next t → SequencerInv t

/-- R59, which the spec marks as derived from its other rules: its eight invariants hold in every reachable state. -/
def Obligations.ListedInvariantsHoldWhenReachable : Prop :=
  ∀ s : State, Reachable s → ListedInvariants s

/-- R269, which the spec marks as derived from R241 to R266: the transition table is exact: a step either leaves STATE and ERRC or takes a listed transition, and where a
listed transition applies the step takes it. -/
def Obligations.TransitionTableIsExact : Prop :=
  ∀ (s t : State) (e : Event) (rest : List Event), SequencerInv s → s.queue = e :: rest → e ≠ .reset →
    step s = .next t →
    ((t.seq = s.seq ∧ t.errc = s.errc) ∨ Listed s (causeOf s.params.base e) t.seq t.errc) ∧
    (∀ (q : SeqState) (c : ErrCode), Listed s (causeOf s.params.base e) q c → t.seq = q ∧ t.errc = c)

/-! ### AES, CBC and padding -/

/-- R134: the tables satisfy their definition: S(x) is the affine image of the inverse of x, InvS inverts S, and S has no
fixed point and no opposite fixed point; and the spot values. -/
def Obligations.SboxMatchesItsDefinition : Prop :=
  ∀ x : Byte,
    (∀ i : Fin 8, (sbox x).getLsbD i.val =
      (((byteInverse x).getLsbD i.val ^^ (byteInverse x).getLsbD ((i.val + 4) % 8)) ^^
        ((byteInverse x).getLsbD ((i.val + 5) % 8) ^^ (byteInverse x).getLsbD ((i.val + 6) % 8)) ^^
        ((byteInverse x).getLsbD ((i.val + 7) % 8) ^^ (0x63 : Byte).getLsbD i.val))) ∧
    (x ≠ 0 → gmul x (byteInverse x) = 1) ∧
    invSbox (sbox x) = x ∧ sbox x ≠ x ∧ sbox x ≠ x ^^^ 0xFF ∧
    sbox 0x00 = 0x63 ∧ sbox 0x53 = 0xED ∧ sbox 0xFF = 0x16 ∧ invSbox 0xED = 0x53

/-- R142's law: for every schedule, decryption and encryption of a block undo each other. The quantifier takes in
schedules of lengths R140 never gives, on which the model computes the same formula (notes/assumptions/12.md). -/
def Obligations.AesDecUndoesEnc : Prop :=
  ∀ (w : List Column) (x : Block), aesDec w (aesEnc w x) = x ∧ aesEnc w (aesDec w x) = x

/-- R130, R140: the schedule of a legal key: its length, its first Nk words and the rule of each later word. -/
def Obligations.KeyScheduleFollowsItsRule : Prop :=
  ∀ k : List Byte, (k.length = 16 ∨ k.length = 24 ∨ k.length = 32) →
    (keyExpansion k).length = 4 * (k.length / 4 + 6 + 1) ∧
    (∀ i r : Nat, i < k.length / 4 → r < 4 →
      (((keyExpansion k).getD i Column.zero).toBytes).getD r 0 = k.getD (4 * i + r) 0) ∧
    (∀ i : Nat, k.length / 4 ≤ i → i < 4 * (k.length / 4 + 6 + 1) →
      ∃ t, (keyExpansion k).getD i Column.zero =
          ((keyExpansion k).getD (i - k.length / 4) Column.zero).xor t ∧
        t = (if i % (k.length / 4) = 0 then
              (subWord (rotWord ((keyExpansion k).getD (i - 1) Column.zero))).xor
                ⟨xtimes (i / (k.length / 4) - 1) 0x01, 0, 0, 0⟩
            else if k.length / 4 = 8 ∧ i % 8 = 4 then
              subWord ((keyExpansion k).getD (i - 1) Column.zero)
            else (keyExpansion k).getD (i - 1) Column.zero))

/-- R172, which the spec marks as derived from R170 and R171: Unpad(Pad(P)) = P. -/
def Obligations.UnpadUndoesPad : Prop :=
  ∀ p : List Byte, unpad (pad p) = some p

/-- R171: Unpad succeeds exactly on a string that is some P followed by n copies of n, 1 ≤ n ≤ 16, of a whole number of
blocks, and answers that P. -/
def Obligations.UnpadAcceptsExactlyPadding : Prop :=
  ∀ q p : List Byte, unpad q = some p ↔
    q.length % 16 = 0 ∧ ∃ n, 1 ≤ n ∧ n ≤ 16 ∧ q = p ++ List.replicate n (BitVec.ofNat 8 n)

/-- R174's law, which the spec marks as derived: CBC_Dec undoes CBC_Enc on a whole number of blocks, for every schedule and IV. -/
def Obligations.CbcDecUndoesEnc : Prop :=
  ∀ (w : List Column) (iv x : List Byte), iv.length = 16 → x.length % 16 = 0 →
    cbcDec w iv (cbcEnc w iv x) = x

/-- R170, R175: the bytes a padded string ends in and its length, and the length and first block of a ciphertext. -/
def Obligations.PaddingAndCiphertextLengths : Prop :=
  (∀ p : List Byte, (pad p).length = 16 * (p.length / 16 + 1) ∧
    ∃ n, 1 ≤ n ∧ n ≤ 16 ∧ (p.length + n) % 16 = 0 ∧ pad p = p ++ List.replicate n (BitVec.ofNat 8 n)) ∧
  (∀ k iv p : List Byte, iv.length = 16 →
    (encrypt k iv p).length = 16 + 16 * (p.length / 16 + 1) ∧ (encrypt k iv p).take 16 = iv)

/-- R177, which the spec marks as derived: Decrypt(K, Encrypt(K, IV, P)) = P for every legal key length. -/
def Obligations.DecryptUndoesEncrypt : Prop :=
  ∀ k iv p : List Byte, (k.length = 16 ∨ k.length = 24 ∨ k.length = 32) → iv.length = 16 →
    decrypt k (encrypt k iv p) = some p

/-! ### Digest and frame -/

/-- R191: the padded message is the message, the byte 0x80, zero bytes and the length in bits modulo 2^64 in eight bytes,
lowest first; it is a whole number of 64-byte blocks; the number of zero bytes is the least that R191 allows. Lengths that
R190 leaves out are taken the same way (notes/assumptions/21.md). -/
def Obligations.DigestPadding : Prop :=
  ∀ m : List Byte,
    md5Pad m = m ++ [0x80] ++ List.replicate (md5ZeroBytes m.length) 0 ++
      (List.range 8).map (fun j => BitVec.ofNat 8 (8 * m.length % 2 ^ 64 / 256 ^ j)) ∧
    (md5Pad m).length % 64 = 0 ∧ m <+: md5Pad m ∧ md5ZeroBytes m.length ≤ 63 ∧
    (m.length + 1 + md5ZeroBytes m.length) % 64 = 56 ∧
    ∀ k : Nat, (m.length + 1 + k) % 64 = 56 → md5ZeroBytes m.length ≤ k

/-- R200, R202: the checksum text is two lowercase hex characters for each byte, that of its high nibble first; the digest
can be read back from it, so that Verify accepts one text only. -/
def Obligations.ChecksumText : Prop :=
  (hexText [] = [] ∧ ∀ (b : Byte) (d digits : List Byte),
    digits = [0x30, 0x31, 0x32, 0x33, 0x34, 0x35, 0x36, 0x37, 0x38, 0x39, 0x61, 0x62, 0x63, 0x64, 0x65, 0x66] →
    hexText (b :: d) = digits.getD (b.toNat / 16) 0 :: digits.getD (b.toNat % 16) 0 :: hexText d) ∧
  (∀ d : List Byte, (hexText d).length = 2 * d.length ∧
    ∀ c ∈ hexText d, (0x30 ≤ c.toNat ∧ c.toNat ≤ 0x39) ∨ (0x61 ≤ c.toNat ∧ c.toNat ≤ 0x66)) ∧
  (∀ d e : List Byte, hexText d = hexText e → d = e) ∧
  (∀ c s : List Byte, verify c s = true ↔ s = hexText (md5 c).toList)

/-- R212 to R214 (the law of R214 is marked by the spec as derived): the tokens that parse are exactly the formatted
ones, and each parses to its dimensions. -/
def Obligations.TokensParseExactly : Prop :=
  (∀ w h : Nat, 1 ≤ w → w ≤ 65535 → 1 ≤ h → h ≤ 65535 →
    parseToken (formatToken w h) = some (w, h) ∧
    3 ≤ (formatToken w h).length ∧ (formatToken w h).length ≤ 11) ∧
  (∀ (t : List Byte) (w h : Nat), parseToken t = some (w, h) →
    t = formatToken w h ∧ 1 ≤ w ∧ w ≤ 65535 ∧ 1 ≤ h ∧ h ≤ 65535)

/-- R215, R216, R217: the serializer's items carry the frame in order; seg_end is set on the last byte of each of the
three segments only, end on the last item only; and the frame's length. -/
def Obligations.SerializerMarksTheSegments : Prop :=
  ∀ (w h : Nat) (c : List Byte), c ≠ [] →
    (serializerQueue w h c).map OutItem.byte = formatToken w h ++ hexText (md5 c).toList ++ c ∧
    (serializerQueue w h c).length = (formatToken w h).length + 32 + c.length ∧
    (∀ (n : Nat) (it : OutItem), (serializerQueue w h c)[n]? = some it →
      (it.segEnd = true ↔ n + 1 = (formatToken w h).length ∨ n + 1 = (formatToken w h).length + 32 ∨
        n + 1 = (serializerQueue w h c).length) ∧
      (it.last = true ↔ n + 1 = (serializerQueue w h c).length))

/-- R220, which the spec marks as derived: a frame delivered with LAST on the token's final byte only, then end of stream, is recovered exactly, from any
state in DEC_DIMS whose buffers are empty. -/
def Obligations.FrameRoundTrip : Prop :=
  ∀ (s : State) (w h : Nat) (c : List Byte),
    s.seq = .decDims → s.work.tok = [] → s.work.sum = [] → s.work.buf = [] →
    1 ≤ w → w ≤ 65535 → 1 ≤ h → h ≤ 65535 → c.length ≤ s.params.bufBytes →
    ∃ t, execAll (frameWrites w h c ++ [.rxEos]) s = .next t ∧
      t.seq = .decProc ∧ t.res.rxWidth.toNat = w ∧ t.res.rxHeight.toNat = h ∧
      t.work.sum = checksumText c ∧ t.work.buf = c ∧ t.work.wkey = s.work.wkey ∧
      t.errc = s.errc ∧ t.cfg = s.cfg ∧ SameOutside s t

/-- R256, R261, R264 and the laws R177 and R220 (marked by the spec as derived): the output of a completed encryption, carried item by item
to a decryption under the same key whose buffer is as large, completes there and yields the plaintext. -/
def Obligations.EndToEnd : Prop :=
  ∀ s t : State, SequencerInv s → SequencerInv t → s.seq = .encProc → t.seq = .decDims → t.work.tok = [] →
    t.work.wkey = s.work.wkey → s.params.bufBytes ≤ t.params.bufBytes →
    ∃ u, execAll (itemWrites (engineStep s).work.outq ++ [.rxEos]) t = .next u ∧
      (engineStep u).seq = .decOut ∧ (engineStep u).errc = .noError ∧
      (engineStep u).work.outq = plaintextQueue s.work.pt
end

