-- ==== Sys2Proof/Laws/Cbc.lean ====
section
/-! SUPPORT. Small lemmas about blocks, padding and lengths (spec/40_aes.md R131; spec/41_cbc_pkcs7.md R170 to R175). -/

namespace Sys2Proof.Laws

open Sys2Proof Sys2Proof.Machine

/-- R133, R135: InvS inverts S. -/
theorem invSbox_sbox (x : Byte) : invSbox (sbox x) = x := by
  have h : ∀ n : Fin 256, invSbox (sbox (BitVec.ofNat 8 n.val)) = BitVec.ofNat 8 n.val := by
    decide +kernel
  simpa using h ⟨x.toNat, x.isLt⟩

/-- R133, R135: S inverts InvS. -/
theorem sbox_invSbox (x : Byte) : sbox (invSbox x) = x := by
  have h : ∀ n : Fin 256, sbox (invSbox (BitVec.ofNat 8 n.val)) = BitVec.ofNat 8 n.val := by
    decide +kernel
  simpa using h ⟨x.toNat, x.isLt⟩

/-- R137: InvShiftRows undoes ShiftRows. -/
theorem invShiftRows_shiftRows (b : Block) : invShiftRows (shiftRows b) = b := rfl

/-- R137: ShiftRows undoes InvShiftRows. -/
theorem shiftRows_invShiftRows (b : Block) : shiftRows (invShiftRows b) = b := rfl

/-- R11: XOR with a column twice is nothing. -/
theorem column_xor_cancel (a b : Column) : (a.xor b).xor b = a := by
  simp [Column.xor]

/-- R11: XOR with a block twice is nothing. -/
theorem block_xor_cancel (a b : Block) : (a.xor b).xor b = a := by
  simp [Block.xor, column_xor_cancel]

/-- R131: a block's bytes enter as that block. -/
theorem blockOf_toBytes (b : Block) : blockOf b.toBytes = b := rfl

/-- R131: a block of sixteen bytes leaves as those bytes. -/
theorem toBytes_blockOf : ∀ bs : List Byte, bs.length = 16 → (blockOf bs).toBytes = bs
  | [_, _, _, _, _, _, _, _, _, _, _, _, _, _, _, _], _ => rfl

/-- R173: one output block for each input block. -/
theorem cbcEncBlocks_length (w : List Column) (prev : Block) (xs : List Block) :
    (cbcEncBlocks w prev xs).length = xs.length := by
  induction xs generalizing prev <;> simp_all [cbcEncBlocks]

/-- R174: one output block for each input block. -/
theorem cbcDecBlocks_length (w : List Column) (prev : Block) (xs : List Block) :
    (cbcDecBlocks w prev xs).length = xs.length := by
  induction xs generalizing prev <;> simp_all [cbcDecBlocks]

/-- As many blocks as asked for. -/
theorem blocksOf_length (m : Nat) (x : List Byte) : (blocksOf m x).length = m := by
  induction m generalizing x <;> simp_all [blocksOf]

/-- Sixteen bytes a block. -/
theorem blocksToBytes_length (bs : List Block) : (blocksToBytes bs).length = 16 * bs.length := by
  induction bs with
  | nil => rfl
  | cons b bs ih =>
    simp only [blocksToBytes, List.flatMap_cons, List.length_append, List.length_cons] at ih ⊢
    rw [ih]
    simp only [Block.toBytes, Column.toBytes, List.length_append, List.length_cons, List.length_nil]
    omega

/-- R173: the length of a CBC encryption. -/
theorem cbcEnc_length (w : List Column) (iv x : List Byte) :
    (cbcEnc w iv x).length = 16 * (x.length / 16) := by
  simp [cbcEnc, blocksToBytes_length, cbcEncBlocks_length, blocksOf_length]

/-- R174: the length of a CBC decryption. -/
theorem cbcDec_length (w : List Column) (iv y : List Byte) :
    (cbcDec w iv y).length = 16 * (y.length / 16) := by
  simp [cbcDec, blocksToBytes_length, cbcDecBlocks_length, blocksOf_length]

end Sys2Proof.Laws
end

