-- ==== Sys2Proof/Laws/Frame.lean ====
section
/-! SUPPORT. Small lemmas about output items and tokens (spec/43_frame.md R212 to R216). -/

namespace Sys2Proof.Laws

open Sys2Proof Sys2Proof.Machine Sys2Proof.Safety

/-- R216: a segment's items are empty exactly when the segment is. -/
theorem segmentItems_eq_nil (final : Bool) (bs : List Byte) : segmentItems final bs = [] ↔ bs = [] := by
  cases bs with
  | nil => simp [segmentItems]
  | cons b bs => simp only [segmentItems]; split <;> simp

/-- R216: a segment's items carry its bytes in order. -/
theorem segmentItems_bytes (final : Bool) (bs : List Byte) :
    (segmentItems final bs).map OutItem.byte = bs := by
  induction bs with
  | nil => rfl
  | cons b bs ih =>
    simp only [segmentItems]
    split
    · simp_all
    · simp [ih]

/-- R216: one item for each byte. -/
theorem segmentItems_length (final : Bool) (bs : List Byte) :
    (segmentItems final bs).length = bs.length := by
  simpa using congrArg List.length (segmentItems_bytes final bs)

/-- R216: no item of a segment before the last has end = 1. -/
theorem segmentItems_not_last (bs : List Byte) : ∀ it ∈ segmentItems false bs, it.last = false := by
  induction bs with
  | nil => simp [segmentItems]
  | cons b bs ih => simp only [segmentItems]; split <;> simp_all

/-- R57: the last segment's items are marked as R57 says. -/
theorem endsMarked_segmentItems (bs : List Byte) : endsMarked (segmentItems true bs) = true := by
  induction bs with
  | nil => rfl
  | cons b bs ih =>
    cases bs with
    | nil => rfl
    | cons c cs =>
      simp only [segmentItems, List.isEmpty_cons, Bool.false_eq_true, if_false] at ih ⊢
      split <;> simp_all [endsMarked]

/-- R57: items without the end mark may stand before well-marked ones. -/
theorem endsMarked_append (a b : List OutItem) (ha : ∀ it ∈ a, it.last = false)
    (hb : endsMarked b = true) (hn : b ≠ []) : endsMarked (a ++ b) = true := by
  induction a with
  | nil => exact hb
  | cons x xs ih => simp [endsMarked]; simp_all

/-- R214: reading digits never lowers the value read so far. -/
theorem decVal_foldl_le (f : List Byte) (n : Nat) :
    n ≤ f.foldl (fun acc b => 10 * acc + (b.toNat - 0x30)) n := by
  induction f generalizing n with
  | nil => exact Nat.le_refl n
  | cons b f ih => simp only [List.foldl_cons]; exact Nat.le_trans (by omega) (ih _)

/-- R212: the value of an accepted field is in 1 to 65535. -/
theorem parseField_bounds {f : List Byte} {v : Nat} (h : parseField f = some v) : 1 ≤ v ∧ v ≤ 65535 := by
  unfold parseField at h
  split at h
  · rename_i hc
    obtain ⟨h1, h2, h3, h4, h5⟩ := hc
    simp only [Option.some.injEq] at h
    subst h
    refine ⟨?_, h5⟩
    cases f with
    | nil => simp at h1
    | cons b f =>
      simp only [List.all_cons, Bool.and_eq_true, isDigit, decide_eq_true_eq] at h3
      have hb : b.toNat ≠ 0x30 := fun hc => h4 (BitVec.eq_of_toNat_eq (by simpa using hc))
      simp only [decVal, List.foldl_cons]
      exact Nat.le_trans (by omega) (decVal_foldl_le f _)
  · simp at h

/-- R212: accepted dimensions are in 1 to 65535. -/
theorem parseToken_bounds {t : List Byte} {w h : Nat} (hp : parseToken t = some (w, h)) :
    1 ≤ w ∧ w ≤ 65535 ∧ 1 ≤ h ∧ h ≤ 65535 := by
  unfold parseToken at hp
  split at hp
  · simp at hp
  · split at hp <;> simp only [reduceCtorEq, Option.some.injEq, Prod.mk.injEq] at hp
    rename_i h1 h2
    obtain ⟨rfl, rfl⟩ := hp
    have hw := parseField_bounds h1
    have hh := parseField_bounds h2
    omega

end Sys2Proof.Laws
end

