-- ==== Sys2Proof/Laws/Lanes.lean ====
section
/-! SUPPORT. Byte lanes (spec/20_memory.md R74): what a word of four lanes holds and what a write of one stores. -/

namespace Sys2Proof.Laws

open Sys2Proof Sys2Proof.Machine

/-- R74: the bits of a word of four lanes. -/
theorem ofLanes_getLsbD (b0 b1 b2 b3 : Byte) (i : Nat) :
    (ofLanes b0 b1 b2 b3).getLsbD i =
      if i < 8 then b0.getLsbD i
      else if i - 8 < 8 then b1.getLsbD (i - 8)
      else if i - 8 - 8 < 8 then b2.getLsbD (i - 8 - 8)
      else b3.getLsbD (i - 8 - 8 - 8) := by
  refine (BitVec.getLsbD_append (x := b3 ++ b2 ++ b1) (y := b0)).trans ?_
  rw [BitVec.getLsbD_append, BitVec.getLsbD_append]

/-- R74: a word is its four lanes. -/
theorem ofLanes_lane (v : Word) : ofLanes (lane v 0) (lane v 1) (lane v 2) (lane v 3) = v := by
  apply BitVec.eq_of_getLsbD_eq
  intro i hi
  rw [ofLanes_getLsbD]
  simp only [lane, BitVec.getLsbD_extractLsb']
  split
  · simp [*]
  · split
    · rename_i h1 h2
      have h : 8 * 1 + (i - 8) = i := by omega
      simp [h, h2]
    · split
      · rename_i h1 h2 h3
        have h : 8 * 2 + (i - 8 - 8) = i := by omega
        simp [h, h3]
      · have h : 8 * 3 + (i - 8 - 8 - 8) = i := by omega
        have h4 : i - 8 - 8 - 8 < 8 := by omega
        simp [h, h4]

/-- R37, R38: a write of a register stores its lanes in its four bytes and leaves the others. -/
theorem writeLanes_getElem {n : Nat} (store : Vector Byte n) (k : Nat) (v : Word) (m : Nat) (h : m < n) :
    (writeLanes store k v)[m] = if m / 4 = k then v.extractLsb' (8 * (m % 4)) 8 else store[m] := by
  simp only [writeLanes, Vector.getElem_setIfInBounds, lane]
  rcases (by omega : 4 * k + 3 = m ∨ 4 * k + 2 = m ∨ 4 * k + 1 = m ∨ 4 * k = m ∨
    (4 * k + 3 ≠ m ∧ 4 * k + 2 ≠ m ∧ 4 * k + 1 ≠ m ∧ 4 * k ≠ m)) with h3 | h2 | h1 | h0 | ⟨a, b, c, d⟩
  · simp [show m / 4 = k by omega, show m % 4 = 3 by omega, h3]
  · simp [show m / 4 = k by omega, show m % 4 = 2 by omega, h2, show 4 * k + 3 ≠ m by omega]
  · simp [show m / 4 = k by omega, show m % 4 = 1 by omega, h1, show 4 * k + 3 ≠ m by omega,
      show 4 * k + 2 ≠ m by omega]
  · simp [show m / 4 = k by omega, show m % 4 = 0 by omega, h0]
  · simp [show m / 4 ≠ k by omega, a, b, c, d]

end Sys2Proof.Laws
end

