-- ==== Sys2Proof/Laws/State.lean ====
section
/-! SUPPORT. One lemma per field per update of the state: each says what the field is after the update. -/

namespace Sys2Proof.Laws

open Sys2Proof Sys2Proof.Machine

section
variable (c : ErrCode) (s : State)

@[simp] theorem raise_params : (raise c s).params = s.params := rfl
@[simp] theorem raise_cfg : (raise c s).cfg = s.cfg := rfl
@[simp] theorem raise_res : (raise c s).res = s.res := rfl
@[simp] theorem raise_work : (raise c s).work = Working.empty := rfl
@[simp] theorem raise_seq : (raise c s).seq = .error := rfl
@[simp] theorem raise_errc : (raise c s).errc = c := rfl
@[simp] theorem raise_intDone : (raise c s).intDone = s.intDone := rfl
@[simp] theorem raise_intErr : (raise c s).intErr = true := rfl
@[simp] theorem raise_queue : (raise c s).queue = s.queue := rfl
@[simp] theorem raise_rdata : (raise c s).rdata = s.rdata := rfl
@[simp] theorem raise_draws : (raise c s).draws = s.draws := rfl

end

section
variable (s : State)

@[simp] theorem abortTransfer_params : (abortTransfer s).params = s.params := rfl
@[simp] theorem abortTransfer_cfg : (abortTransfer s).cfg = s.cfg := rfl
@[simp] theorem abortTransfer_res : (abortTransfer s).res = s.res := rfl
@[simp] theorem abortTransfer_work : (abortTransfer s).work = Working.empty := rfl
@[simp] theorem abortTransfer_seq : (abortTransfer s).seq = .idle := rfl
@[simp] theorem abortTransfer_errc : (abortTransfer s).errc = .noError := rfl
@[simp] theorem abortTransfer_intDone : (abortTransfer s).intDone = s.intDone := rfl
@[simp] theorem abortTransfer_intErr : (abortTransfer s).intErr = s.intErr := rfl
@[simp] theorem abortTransfer_queue : (abortTransfer s).queue = s.queue := rfl
@[simp] theorem abortTransfer_rdata : (abortTransfer s).rdata = s.rdata := rfl
@[simp] theorem abortTransfer_draws : (abortTransfer s).draws = s.draws := rfl

end

section
variable (v : Word) (s : State)

@[simp] theorem respond_params : (respond v s).params = s.params := rfl
@[simp] theorem respond_cfg : (respond v s).cfg = s.cfg := rfl
@[simp] theorem respond_res : (respond v s).res = s.res := rfl
@[simp] theorem respond_work : (respond v s).work = s.work := rfl
@[simp] theorem respond_seq : (respond v s).seq = s.seq := rfl
@[simp] theorem respond_errc : (respond v s).errc = s.errc := rfl
@[simp] theorem respond_intDone : (respond v s).intDone = s.intDone := rfl
@[simp] theorem respond_intErr : (respond v s).intErr = s.intErr := rfl
@[simp] theorem respond_queue : (respond v s).queue = s.queue := rfl
@[simp] theorem respond_rdata : (respond v s).rdata = v := rfl
@[simp] theorem respond_draws : (respond v s).draws = s.draws := rfl

end

section
variable (v : Word) (s : State)

@[simp] theorem clearIntStatus_params : (clearIntStatus v s).params = s.params := rfl
@[simp] theorem clearIntStatus_cfg : (clearIntStatus v s).cfg = s.cfg := rfl
@[simp] theorem clearIntStatus_res : (clearIntStatus v s).res = s.res := rfl
@[simp] theorem clearIntStatus_work : (clearIntStatus v s).work = s.work := rfl
@[simp] theorem clearIntStatus_seq : (clearIntStatus v s).seq = s.seq := rfl
@[simp] theorem clearIntStatus_errc : (clearIntStatus v s).errc = s.errc := rfl
@[simp] theorem clearIntStatus_intDone : (clearIntStatus v s).intDone = (s.intDone && !v.getLsbD 0) := rfl
@[simp] theorem clearIntStatus_intErr : (clearIntStatus v s).intErr = (s.intErr && !v.getLsbD 1) := rfl
@[simp] theorem clearIntStatus_queue : (clearIntStatus v s).queue = s.queue := rfl
@[simp] theorem clearIntStatus_rdata : (clearIntStatus v s).rdata = s.rdata := rfl
@[simp] theorem clearIntStatus_draws : (clearIntStatus v s).draws = s.draws := rfl

end

section
variable (s : State)

@[simp] theorem endTransfer_params : (endTransfer s).params = s.params := rfl
@[simp] theorem endTransfer_cfg : (endTransfer s).cfg = s.cfg := rfl
@[simp] theorem endTransfer_res : (endTransfer s).res = s.res := rfl
@[simp] theorem endTransfer_work : (endTransfer s).work =
    { s.work with buf := [], wkey := [], w := none, wiv := Vector.replicate 16 0, ww := 0, wh := 0 } := rfl
@[simp] theorem endTransfer_seq : (endTransfer s).seq = .idle := rfl
@[simp] theorem endTransfer_errc : (endTransfer s).errc = s.errc := rfl
@[simp] theorem endTransfer_intDone : (endTransfer s).intDone = s.intDone := rfl
@[simp] theorem endTransfer_intErr : (endTransfer s).intErr = s.intErr := rfl
@[simp] theorem endTransfer_queue : (endTransfer s).queue = s.queue := rfl
@[simp] theorem endTransfer_rdata : (endTransfer s).rdata = s.rdata := rfl
@[simp] theorem endTransfer_draws : (endTransfer s).draws = s.draws := rfl

end

section
variable (w h : Nat) (s : State)

@[simp] theorem acceptToken_params : (acceptToken w h s).params = s.params := rfl
@[simp] theorem acceptToken_cfg : (acceptToken w h s).cfg = s.cfg := rfl
@[simp] theorem acceptToken_res : (acceptToken w h s).res =
    { s.res with rxWidth := BitVec.ofNat 16 w, rxHeight := BitVec.ofNat 16 h } := rfl
@[simp] theorem acceptToken_work : (acceptToken w h s).work = { s.work with tok := [] } := rfl
@[simp] theorem acceptToken_seq : (acceptToken w h s).seq = .decSum := rfl
@[simp] theorem acceptToken_errc : (acceptToken w h s).errc = s.errc := rfl
@[simp] theorem acceptToken_intDone : (acceptToken w h s).intDone = s.intDone := rfl
@[simp] theorem acceptToken_intErr : (acceptToken w h s).intErr = s.intErr := rfl
@[simp] theorem acceptToken_queue : (acceptToken w h s).queue = s.queue := rfl
@[simp] theorem acceptToken_rdata : (acceptToken w h s).rdata = s.rdata := rfl
@[simp] theorem acceptToken_draws : (acceptToken w h s).draws = s.draws := rfl

end

section
variable (r : List Byte) (s : State)

@[simp] theorem releasePlaintext_params : (releasePlaintext r s).params = s.params := rfl
@[simp] theorem releasePlaintext_cfg : (releasePlaintext r s).cfg = s.cfg := rfl
@[simp] theorem releasePlaintext_res : (releasePlaintext r s).res = s.res := rfl
@[simp] theorem releasePlaintext_work : (releasePlaintext r s).work =
    { s.work with outq := plaintextQueue r, buf := [], sum := [] } := rfl
@[simp] theorem releasePlaintext_seq : (releasePlaintext r s).seq = .decOut := rfl
@[simp] theorem releasePlaintext_errc : (releasePlaintext r s).errc = s.errc := rfl
@[simp] theorem releasePlaintext_intDone : (releasePlaintext r s).intDone = true := rfl
@[simp] theorem releasePlaintext_intErr : (releasePlaintext r s).intErr = s.intErr := rfl
@[simp] theorem releasePlaintext_queue : (releasePlaintext r s).queue = s.queue := rfl
@[simp] theorem releasePlaintext_rdata : (releasePlaintext r s).rdata = s.rdata := rfl
@[simp] theorem releasePlaintext_draws : (releasePlaintext r s).draws = s.draws := rfl

end

section
variable (s : State)

@[simp] theorem encComplete_params : (encComplete s).params = s.params := rfl
@[simp] theorem encComplete_cfg : (encComplete s).cfg = s.cfg := rfl
@[simp] theorem encComplete_res : (encComplete s).res =
    { s.res with ctlen := BitVec.ofNat 32 (encCiphertext s).length, dg := md5 (encCiphertext s) } := rfl
@[simp] theorem encComplete_work : (encComplete s).work =
    { s.work with buf := encCiphertext s, outq := serializerQueue s.work.ww.toNat s.work.wh.toNat (encCiphertext s), pt := [] } := rfl
@[simp] theorem encComplete_seq : (encComplete s).seq = .encOut := rfl
@[simp] theorem encComplete_errc : (encComplete s).errc = s.errc := rfl
@[simp] theorem encComplete_intDone : (encComplete s).intDone = true := rfl
@[simp] theorem encComplete_intErr : (encComplete s).intErr = s.intErr := rfl
@[simp] theorem encComplete_queue : (encComplete s).queue = s.queue := rfl
@[simp] theorem encComplete_rdata : (encComplete s).rdata = s.rdata := rfl
@[simp] theorem encComplete_draws : (encComplete s).draws = s.draws := rfl

end

section
variable (s : State)

@[simp] theorem platformReset_params : (platformReset s).params = s.params := rfl
@[simp] theorem platformReset_cfg : (platformReset s).cfg = ConfigRegs.zero := rfl
@[simp] theorem platformReset_res : (platformReset s).res = ResultRegs.zero := rfl
@[simp] theorem platformReset_work : (platformReset s).work = Working.empty := rfl
@[simp] theorem platformReset_seq : (platformReset s).seq = .idle := rfl
@[simp] theorem platformReset_errc : (platformReset s).errc = .noError := rfl
@[simp] theorem platformReset_intDone : (platformReset s).intDone = false := rfl
@[simp] theorem platformReset_intErr : (platformReset s).intErr = false := rfl
@[simp] theorem platformReset_queue : (platformReset s).queue = s.queue := rfl
@[simp] theorem platformReset_rdata : (platformReset s).rdata = s.rdata := rfl
@[simp] theorem platformReset_draws : (platformReset s).draws = s.draws := rfl

end

section
variable (p : Params)

@[simp] theorem resetWith_params : (State.resetWith p).params = p := rfl
@[simp] theorem resetWith_cfg : (State.resetWith p).cfg = ConfigRegs.zero := rfl
@[simp] theorem resetWith_res : (State.resetWith p).res = ResultRegs.zero := rfl
@[simp] theorem resetWith_work : (State.resetWith p).work = Working.empty := rfl
@[simp] theorem resetWith_seq : (State.resetWith p).seq = .idle := rfl
@[simp] theorem resetWith_errc : (State.resetWith p).errc = .noError := rfl
@[simp] theorem resetWith_intDone : (State.resetWith p).intDone = false := rfl
@[simp] theorem resetWith_intErr : (State.resetWith p).intErr = false := rfl
@[simp] theorem resetWith_queue : (State.resetWith p).queue = [] := rfl
@[simp] theorem resetWith_rdata : (State.resetWith p).rdata = 0 := rfl
@[simp] theorem resetWith_draws : (State.resetWith p).draws = 0 := rfl

end

section
variable (s : State) (nbits w : Nat)

@[simp] theorem withFetchWord_params : (s.withFetchWord nbits w).params = s.params := rfl
@[simp] theorem withFetchWord_cfg : (s.withFetchWord nbits w).cfg = s.cfg := rfl
@[simp] theorem withFetchWord_res : (s.withFetchWord nbits w).res = s.res := rfl
@[simp] theorem withFetchWord_work : (s.withFetchWord nbits w).work = s.work := rfl
@[simp] theorem withFetchWord_seq : (s.withFetchWord nbits w).seq = s.seq := rfl
@[simp] theorem withFetchWord_errc : (s.withFetchWord nbits w).errc = s.errc := rfl
@[simp] theorem withFetchWord_intDone : (s.withFetchWord nbits w).intDone = s.intDone := rfl
@[simp] theorem withFetchWord_intErr : (s.withFetchWord nbits w).intErr = s.intErr := rfl
@[simp] theorem withFetchWord_queue : (s.withFetchWord nbits w).queue =
    .access ((tableOp (BitVec.ofNat 32 w)).toAccess s.params.base) :: s.queue := rfl
@[simp] theorem withFetchWord_rdata : (s.withFetchWord nbits w).rdata = s.rdata := rfl
@[simp] theorem withFetchWord_draws : (s.withFetchWord nbits w).draws = s.draws := rfl

end

section
variable (s : State)

@[simp] theorem storeDigest_params : (storeDigest s).params = s.params := rfl
@[simp] theorem storeDigest_cfg : (storeDigest s).cfg = s.cfg := rfl
@[simp] theorem storeDigest_res : (storeDigest s).res = { s.res with dg := md5 s.work.buf } := rfl
@[simp] theorem storeDigest_work : (storeDigest s).work = s.work := rfl
@[simp] theorem storeDigest_seq : (storeDigest s).seq = s.seq := rfl
@[simp] theorem storeDigest_errc : (storeDigest s).errc = s.errc := rfl
@[simp] theorem storeDigest_intDone : (storeDigest s).intDone = s.intDone := rfl
@[simp] theorem storeDigest_intErr : (storeDigest s).intErr = s.intErr := rfl
@[simp] theorem storeDigest_queue : (storeDigest s).queue = s.queue := rfl
@[simp] theorem storeDigest_rdata : (storeDigest s).rdata = s.rdata := rfl
@[simp] theorem storeDigest_draws : (storeDigest s).draws = s.draws := rfl

end

section
variable (n : Nat) (s : State)

@[simp] theorem storePtlen_params : (storePtlen n s).params = s.params := rfl
@[simp] theorem storePtlen_cfg : (storePtlen n s).cfg = s.cfg := rfl
@[simp] theorem storePtlen_res : (storePtlen n s).res = { s.res with ptlen := BitVec.ofNat 32 n } := rfl
@[simp] theorem storePtlen_work : (storePtlen n s).work = s.work := rfl
@[simp] theorem storePtlen_seq : (storePtlen n s).seq = s.seq := rfl
@[simp] theorem storePtlen_errc : (storePtlen n s).errc = s.errc := rfl
@[simp] theorem storePtlen_intDone : (storePtlen n s).intDone = s.intDone := rfl
@[simp] theorem storePtlen_intErr : (storePtlen n s).intErr = s.intErr := rfl
@[simp] theorem storePtlen_queue : (storePtlen n s).queue = s.queue := rfl
@[simp] theorem storePtlen_rdata : (storePtlen n s).rdata = s.rdata := rfl
@[simp] theorem storePtlen_draws : (storePtlen n s).draws = s.draws := rfl

end

section
variable (s : State)

/-- R251: SelectIV touches IVREG and the count of draws only. -/
@[simp] theorem selectIV_params : (selectIV s).2.params = s.params := by unfold selectIV; split <;> rfl
@[simp] theorem selectIV_work : (selectIV s).2.work = s.work := by unfold selectIV; split <;> rfl
@[simp] theorem selectIV_errc : (selectIV s).2.errc = s.errc := by unfold selectIV; split <;> rfl
@[simp] theorem selectIV_intDone : (selectIV s).2.intDone = s.intDone := by unfold selectIV; split <;> rfl
@[simp] theorem selectIV_intErr : (selectIV s).2.intErr = s.intErr := by unfold selectIV; split <;> rfl
@[simp] theorem selectIV_queue : (selectIV s).2.queue = s.queue := by unfold selectIV; split <;> rfl
@[simp] theorem selectIV_rdata : (selectIV s).2.rdata = s.rdata := by unfold selectIV; split <;> rfl
@[simp] theorem selectIV_ivsrc : (selectIV s).2.cfg.ivsrc = s.cfg.ivsrc := by unfold selectIV; split <;> rfl

@[simp] theorem encLatch_params : (encLatch s).params = s.params := selectIV_params s
@[simp] theorem encLatch_cfg : (encLatch s).cfg = (selectIV s).2.cfg := rfl
@[simp] theorem encLatch_res : (encLatch s).res = ResultRegs.zero := rfl
@[simp] theorem encLatch_seq : (encLatch s).seq = .encIn := rfl
@[simp] theorem encLatch_errc : (encLatch s).errc = s.errc := selectIV_errc s
@[simp] theorem encLatch_intDone : (encLatch s).intDone = s.intDone := selectIV_intDone s
@[simp] theorem encLatch_intErr : (encLatch s).intErr = s.intErr := selectIV_intErr s
@[simp] theorem encLatch_queue : (encLatch s).queue = s.queue := selectIV_queue s
@[simp] theorem encLatch_rdata : (encLatch s).rdata = s.rdata := selectIV_rdata s
@[simp] theorem encLatch_draws : (encLatch s).draws = (selectIV s).2.draws := rfl
@[simp] theorem encLatch_work : (encLatch s).work =
    { s.work with
      wkey := keyInUse s.cfg, w := some (keyExpansion (keyInUse s.cfg)), wiv := (selectIV s).1,
      ww := s.cfg.width, wh := s.cfg.height, pt := [], buf := [], outq := [] } := by
  simp [encLatch]

end

end Sys2Proof.Laws
end

