-- ==== Sys2Proof/Laws/Ops.lean ====
section
/-! SUPPORT. For each shared operation, what it can do, said once. -/

namespace Sys2Proof.Laws

open Sys2Proof Sys2Proof.Machine Sys2Proof.Safety

/-- R303: `raise` is error entry. -/
theorem raise_entry (c : ErrCode) (s : State) : ErrorEntry c s (raise c s) := by
  constructor <;> rfl

/-- R242, R266: what a CMD write of a command other than ABORT can do. -/
theorem command_cases (i : Instr) (body : State → State) (s : State) :
    (s.seq = .error ∧ command i body s = s) ∨
    (s.seq ≠ .error ∧ legal i s.seq = true ∧ command i body s = body s) ∨
    (s.seq ≠ .error ∧ legal i s.seq = false ∧ command i body s = raise .sequenceError s) := by
  unfold command
  split
  · exact .inl ⟨‹_›, rfl⟩
  · split
    · exact .inr (.inl ⟨‹_›, ‹_›, rfl⟩)
    · exact .inr (.inr ⟨‹_›, Bool.eq_false_iff.mpr ‹_›, rfl⟩)

/-- R103, R266: what an illegal CMD word can do. -/
theorem illegalCommand_cases (s : State) :
    (s.seq = .error ∧ illegalCommand s = s) ∨
    (s.seq ≠ .error ∧ illegalCommand s = raise .illegalOpcode s) := by
  unfold illegalCommand
  split
  · exact .inl ⟨‹_›, rfl⟩
  · exact .inr ⟨‹_›, rfl⟩

/-- R250: what ENC_BEGIN can do in IDLE. -/
theorem encBegin_cases (s : State) :
    (legalKeyLen s.cfg.keylen.toNat = false ∧ encBegin s = raise .badKeyLength s) ∨
    (legalKeyLen s.cfg.keylen.toNat = true ∧ (s.cfg.width = 0 ∨ s.cfg.height = 0) ∧
      encBegin s = raise .badDimensions s) ∨
    (legalKeyLen s.cfg.keylen.toNat = true ∧ s.cfg.width ≠ 0 ∧ s.cfg.height ≠ 0 ∧
      s.params.bufBytes < ciphertextLen (imageBytes s.cfg.width s.cfg.height) ∧
      encBegin s = raise .capacity s) ∨
    (legalKeyLen s.cfg.keylen.toNat = true ∧ s.cfg.width ≠ 0 ∧ s.cfg.height ≠ 0 ∧
      ciphertextLen (imageBytes s.cfg.width s.cfg.height) ≤ s.params.bufBytes ∧
      encBegin s = encLatch s) := by
  unfold encBegin
  split
  · rename_i hk
    exact .inl ⟨by simpa using hk, rfl⟩
  · rename_i hk
    have hk : legalKeyLen s.cfg.keylen.toNat = true := by simpa using hk
    split
    · exact .inr (.inl ⟨hk, ‹_›, rfl⟩)
    · rename_i hd
      obtain ⟨hw, hh⟩ := not_or.mp hd
      split
      · exact .inr (.inr (.inl ⟨hk, hw, hh, ‹_›, rfl⟩))
      · exact .inr (.inr (.inr ⟨hk, hw, hh, by omega, rfl⟩))

/-- R261: what the completion of a decryption can do. -/
theorem decComplete_cases (s : State) :
    (verify s.work.buf s.work.sum = false ∧ decComplete s = raise .integrityFailure (storeDigest s)) ∨
    (verify s.work.buf s.work.sum = true ∧ decrypt s.work.wkey s.work.buf = none ∧
      decComplete s = raise .badKeyOrCorrupt (storeDigest s)) ∨
    (∃ r, verify s.work.buf s.work.sum = true ∧ decrypt s.work.wkey s.work.buf = some r ∧
      r.length ≠ rxBytes s ∧
      decComplete s = raise .sizeMismatch (storePtlen r.length (storeDigest s))) ∨
    (∃ r, verify s.work.buf s.work.sum = true ∧ decrypt s.work.wkey s.work.buf = some r ∧
      r.length = rxBytes s ∧
      decComplete s = releasePlaintext r (storePtlen r.length (storeDigest s))) := by
  have hx : rxBytes (storeDigest s) = rxBytes s := rfl
  cases hv : verify s.work.buf s.work.sum
  · exact .inl ⟨rfl, by simp [decComplete, hv]⟩
  · cases hd : decrypt s.work.wkey s.work.buf with
    | none => exact .inr (.inl ⟨rfl, rfl, by simp [decComplete, hv, hd]⟩)
    | some r =>
      by_cases hr : r.length = rxBytes s
      · exact .inr (.inr (.inr ⟨r, rfl, rfl, hr, by simp [decComplete, decAccept, hv, hd, hx, hr]⟩))
      · exact .inr (.inr (.inl ⟨r, rfl, rfl, hr, by simp [decComplete, decAccept, hv, hd, hx, hr]⟩))

/-- R265: what a DOUT read can do to the queue and the transfer. -/
theorem popOut_cases (s : State) :
    (s.work.outq = [] ∧ popOut s = s) ∨
    (∃ it rest, s.work.outq = it :: rest ∧ it.last = false ∧
      popOut s = { s with work := { s.work with outq := rest } }) ∨
    (∃ it rest, s.work.outq = it :: rest ∧ it.last = true ∧
      popOut s = endTransfer { s with work := { s.work with outq := rest } }) := by
  unfold popOut
  cases h : s.work.outq with
  | nil => exact .inl ⟨rfl, rfl⟩
  | cons it rest =>
    cases hl : it.last
    · exact .inr (.inl ⟨it, rest, rfl, hl, by simp [hl]⟩)
    · exact .inr (.inr ⟨it, rest, rfl, hl, by simp [hl]⟩)

/-- R264: what a DIN write can do, by state. -/
theorem dinWrite_cases (b : Byte) (l : Bool) (s : State) :
    (s.seq = .encIn ∧ s.work.pt.length = npt s ∧ dinWrite b l s = raise .sizeMismatch s) ∨
    (s.seq = .encIn ∧ s.work.pt.length ≠ npt s ∧ dinWrite b l s =
      { s with
        work := { s.work with pt := s.work.pt ++ [b] }
        res := { s.res with ptlen := BitVec.ofNat 32 (s.work.pt ++ [b]).length } }) ∨
    (s.seq = .decDims ∧ s.work.tok.length = 11 ∧ dinWrite b l s = raise .malformedFrame s) ∨
    (s.seq = .decDims ∧ s.work.tok.length ≠ 11 ∧ l = false ∧
      dinWrite b l s = { s with work := { s.work with tok := s.work.tok ++ [b] } }) ∨
    (s.seq = .decDims ∧ s.work.tok.length ≠ 11 ∧ l = true ∧
      parseToken (s.work.tok ++ [b]) = none ∧ dinWrite b l s = raise .malformedFrame s) ∨
    (∃ w h, s.seq = .decDims ∧ s.work.tok.length ≠ 11 ∧ l = true ∧
      parseToken (s.work.tok ++ [b]) = some (w, h) ∧ dinWrite b l s = acceptToken w h s) ∨
    (s.seq = .decSum ∧ dinWrite b l s =
      { s with
        work := { s.work with sum := s.work.sum ++ [b] }
        seq := if (s.work.sum ++ [b]).length = 32 then .decCt else s.seq }) ∨
    (s.seq = .decCt ∧ s.work.buf.length = s.params.bufBytes ∧ dinWrite b l s = raise .capacity s) ∨
    (s.seq = .decCt ∧ s.work.buf.length ≠ s.params.bufBytes ∧ dinWrite b l s =
      { s with
        work := { s.work with buf := s.work.buf ++ [b] }
        res := { s.res with ctlen := BitVec.ofNat 32 (s.work.buf ++ [b]).length } }) ∨
    (s.seq = .error ∧ dinWrite b l s = s) ∨
    ((s.seq = .idle ∨ s.seq = .encProc ∨ s.seq = .encOut ∨ s.seq = .decProc ∨ s.seq = .decOut) ∧
      dinWrite b l s = raise .sequenceError s) := by
  unfold dinWrite
  cases hs : s.seq <;>
    simp only [reduceCtorEq, false_and, exists_false, false_or, or_false, true_and,
      or_true, or_self, dinPlaintext, dinToken, dinChecksum, dinCiphertext]
  · by_cases h : s.work.pt.length = npt s <;> simp [h, hs]
  · by_cases h : s.work.tok.length = 11
    · simp [h]
    · cases l
      · simp [h, hs]
      · cases parseToken (s.work.tok ++ [b]) with
        | none => simp [h]
        | some d => obtain ⟨w, k⟩ := d; simp [h]
  · simp [hs]
  · by_cases h : s.work.buf.length = s.params.bufBytes <;> simp [h, hs]

/-- R70 to R73: the address decoder takes the access of a well-formed operation and gives the operation back. -/
theorem addressDecode_toAccess (base : Nat) (op : BusOp) (h : op.wf = true) :
    addressDecode base (op.toAccess base) = .ok op := by
  cases op <;>
    simp only [BusOp.wf, Bool.and_eq_true, decide_eq_true_eq, beq_iff_eq] at h <;>
    simp [addressDecode, BusOp.toAccess, h.1, h.2]

/-- R70 to R73: an operation the address decoder lets through is aligned and in the window, and the access is its. -/
theorem addressDecode_ok {base : Nat} {a : Access} {op : BusOp} (h : addressDecode base a = .ok op) :
    op.wf = true ∧ a = op.toAccess base := by
  cases a <;> simp only [addressDecode] at h <;> split at h <;> try contradiction
  all_goals
    split at h <;> try contradiction
    rename_i hw ha
    simp only [not_or, Nat.not_lt, Nat.not_le, ne_eq, not_not] at hw ha
    cases h
    simp only [BusOp.wf, BusOp.toAccess, Bool.and_eq_true, decide_eq_true_eq, beq_iff_eq]
    refine ⟨⟨by omega, ha.2⟩, ?_⟩
    rw [ha.1]
    congr 1
    omega

/-- R9, R72, R340: what a step can do: the completion of a quiet machine, or one event. -/
theorem step_cases {s t : State} (h : step s = .next t) :
    (s.queue = [] ∧ t = engineStep s) ∨
    (∃ e rest, s.queue = e :: rest ∧ takeEvent e { s with queue := rest } = .next t) := by
  unfold step at h
  cases hq : s.queue with
  | nil => rw [hq] at h; exact .inl ⟨rfl, by cases h; rfl⟩
  | cons e rest => rw [hq] at h; exact .inr ⟨e, rest, rfl, h⟩

end Sys2Proof.Laws
end

