-- ==== Sys2Proof/Laws/PerInstr.lean ====
section
/-! SUPPORT. What is said of every instruction, one lemma per constructor of Instr. -/

namespace Sys2Proof.Laws

open Sys2Proof

/-- R100, R107: an instruction is well formed, its encoding is an access the ACFE takes, and the encoding decodes to
it. -/
def EncodedInWindow.Statement (i : Instr) : Prop :=
  i.wf = true ∧ (encode i).wf = true ∧ decode (encode i) = .ok i

theorem EncodedInWindow.nop : EncodedInWindow.Statement .nop := ⟨rfl, rfl, rfl⟩

theorem EncodedInWindow.abort : EncodedInWindow.Statement .abort := ⟨rfl, rfl, rfl⟩

theorem EncodedInWindow.encBegin : EncodedInWindow.Statement .encBegin := ⟨rfl, rfl, rfl⟩

theorem EncodedInWindow.encFinal : EncodedInWindow.Statement .encFinal := ⟨rfl, rfl, rfl⟩

theorem EncodedInWindow.decBegin : EncodedInWindow.Statement .decBegin := ⟨rfl, rfl, rfl⟩

theorem EncodedInWindow.rxEos : EncodedInWindow.Statement .rxEos := ⟨rfl, rfl, rfl⟩

/-- R104: the bits of a DIN word. -/
theorem dinWord_getLsbD (data : Byte) (last : Bool) (ignored : BitVec 23) (i : Nat) :
    (dinWord data last ignored).getLsbD i =
      if i < 8 then data.getLsbD i
      else if i - 8 < 1 then (BitVec.ofBool last).getLsbD (i - 8)
      else ignored.getLsbD (i - 8 - 1) := by
  refine (BitVec.getLsbD_append (x := ignored ++ BitVec.ofBool last) (y := data) (i := i)).trans ?_
  rw [BitVec.getLsbD_append]

/-- R104: the fields of a DIN word are what it was built from. -/
theorem dinOf_dinWord (data : Byte) (last : Bool) (ignored : BitVec 23) :
    dinOf (dinWord data last ignored) = .din data last ignored := by
  simp only [dinOf, Instr.din.injEq]
  refine ⟨?_, ?_, ?_⟩
  · apply BitVec.eq_of_getLsbD_eq
    intro i hi
    simp [dinWord_getLsbD, hi]
  · rw [dinWord_getLsbD]
    simp
  · apply BitVec.eq_of_getLsbD_eq
    intro i hi
    have h1 : ¬ 9 + i < 8 := by omega
    have h2 : ¬ 9 + i - 8 < 1 := by omega
    have h3 : 9 + i - 8 - 1 = i := by omega
    simp only [BitVec.getLsbD_extractLsb', dinWord_getLsbD, h1, h2, h3, hi, if_false, decide_true,
      Bool.true_and]

theorem EncodedInWindow.din (data : Byte) (last : Bool) (ignored : BitVec 23) :
    EncodedInWindow.Statement (.din data last ignored) :=
  ⟨rfl, rfl, congrArg Except.ok (dinOf_dinWord data last ignored)⟩

theorem EncodedInWindow.dout : EncodedInWindow.Statement .dout := ⟨rfl, rfl, rfl⟩

end Sys2Proof.Laws
end

