-- ==== Sys2Proof/Tests/Slice0.lean ====
section
/-! SUPPORT. Tests, each on one small state and with its expected result from spec/95_test_vectors.md or by hand from
the rule named; and, for every statement of the obligations that has hypotheses, a state that meets them. -/

namespace Sys2Proof.Tests

open Sys2Proof Sys2Proof.Machine Sys2Proof.Safety

/-! ### Helpers -/

/-- What `f` says of the state after one host access, where there is a next state. -/
def after {α : Type} (op : BusOp) (s : State) (f : State → α) : Option α :=
  match step { s with queue := [.access (op.toAccess s.params.base)] } with
  | .next t => some (f t)
  | .fault _ => none
  | .refused _ => none

/-- STATUS, as a host reads it. -/
def status (s : State) : Word := readReg .status s

/-- The bytes of a number, its most significant byte first: a byte string as the vectors print it. -/
def bytes (n v : Nat) : List Byte := (List.range n).map (fun i => BitVec.ofNat 8 (v / 256 ^ (n - 1 - i)))

/-- ascii("testkeytestkey12"), the key of S1a. -/
def key16 : List Byte := bytes 16 0x746573746b6579746573746b65793132

/-- The IV of S1a. -/
def iv16 : List Byte := bytes 16 0x000102030405060708090a0b0c0d0e0f

/-- Reset, with the smallest legal buffer. -/
def small : State := State.resetWith { bufBytes := 32, hasTrng := true, base := 0x40000100 }

/-- A 16-byte key of zeros and a 1×1 image, configured in IDLE. -/
def ready : State := { small with cfg := { small.cfg with keylen := 16, width := 1, height := 1 } }

/-- In the middle of an encryption of a 1×1 image, with `n` plaintext bytes written. -/
def encrypting3 (q : SeqState) (n : Nat) : State :=
  { small with
    seq := q
    res := { small.res with ptlen := BitVec.ofNat 32 n }
    work := { small.work with
      wkey := List.replicate 16 0, w := some (keyExpansion (List.replicate 16 0)), ww := 1, wh := 1,
      pt := List.replicate n 0 } }

/-- In the middle of a decryption, with the given buffers. -/
def decrypting (q : SeqState) (tok sum buf : List Byte) : State :=
  { small with
    seq := q
    res := { small.res with
      rxWidth := if q = .decDims then 0 else 1, rxHeight := if q = .decDims then 0 else 1,
      ctlen := BitVec.ofNat 32 buf.length }
    work := { small.work with
      wkey := List.replicate 16 0, w := some (keyExpansion (List.replicate 16 0)),
      tok := tok, sum := sum, buf := buf } }

/-- A ciphertext of a 1×1 image under the key of zeros. -/
def ct : List Byte := encrypt (List.replicate 16 0) (List.replicate 16 0) [0, 0, 0]

/-- DEC_PROC with a good frame received. -/
def goodFrame : State := decrypting .decProc [] (checksumText ct) ct

/-- ENC_OUT with the last item at the head. -/
def lastItem : State :=
  let s := encrypting3 .encOut 0
  { s with
    res := { s.res with ptlen := 3, ctlen := 1 }
    work := { s.work with outq := [⟨0x67, true, true⟩], buf := [0x67] } }

/-- ERROR, after an illegal word. -/
def failed : State := raise .illegalOpcode small

/-! ### WellFormed: each check refuses a term that breaks it alone -/

theorem test_params_standard : Params.standard.wf = true := by decide
theorem test_params_multiple : Params.wf ⟨4097, false, 0⟩ = false := by decide
theorem test_params_low : Params.wf ⟨16, false, 0⟩ = false := by decide
theorem test_params_high : Params.wf ⟨2 ^ 31 + 16, false, 0⟩ = false := by decide
theorem test_params_base : Params.wf ⟨4096, false, 4⟩ = false := by decide
theorem test_op_read_window : BusOp.wf (.read 0x100) = false := by decide
theorem test_op_read_aligned : BusOp.wf (.read 0x3A) = false := by decide
theorem test_op_write_window : BusOp.wf (.write 0x104 0) = false := by decide
theorem test_op_write_aligned : BusOp.wf (.write 0x11 0) = false := by decide
theorem test_access_below : Access.wf 0x100 (.read 0xFC 32) = false := by decide
theorem test_access_above : Access.wf 0x100 (.write 0x200 32 0) = false := by decide
theorem test_access_narrow : Access.wf 0x100 (.read 0x110 16) = false := by decide
theorem test_access_aligned : Access.wf 0x100 (.write 0x112 32 0) = false := by decide

/-! ### Decoding, from the tables of 30_encoding.md R102, R104, R105 -/

theorem test_decode_nop : decode (.write 0x10 0b00000000) = .ok .nop := by decide
theorem test_decode_abort : decode (.write 0x10 0b00000001) = .ok .abort := by decide
theorem test_decode_encBegin : decode (.write 0x10 0b00010000) = .ok .encBegin := by decide
theorem test_decode_encFinal : decode (.write 0x10 0b00010001) = .ok .encFinal := by decide
theorem test_decode_decBegin : decode (.write 0x10 0b00100000) = .ok .decBegin := by decide
theorem test_decode_rxEos : decode (.write 0x10 0b00100001) = .ok .rxEos := by decide
/-- DATA = 0x32 in [7:0], LAST in [8], ignored bits 1 and 23 of 23 set. -/
theorem test_decode_din :
    decode (.write 0x34 0b10000000000000000000001100110010) = .ok (.din 0x32 true 0x400001) := by decide
theorem test_decode_dout : decode (.read 0x38) = .ok .dout := by decide
/-- R103: a reserved opcode, and a bit above [7:0]. -/
theorem test_decode_reserved :
    decode (.write 0x10 0x12) = .error (.illegalCommand 0x12) ∧
    decode (.write 0x10 0x101) = .error (.illegalCommand 0x101) := by decide
theorem test_encode_din : encode (.din 0x32 true 0x400001) = .write 0x34 0x80000332 := by decide
/-- The bare words of the table, in the order of notes/assumptions/6.md. -/
theorem test_table_words :
    decodeTableWord 32 0x00000000 = some .nop ∧ decodeTableWord 32 0x00000001 = some .abort ∧
    decodeTableWord 32 0x00000010 = some .encBegin ∧ decodeTableWord 32 0x00000011 = some .encFinal ∧
    decodeTableWord 32 0x00000020 = some .decBegin ∧ decodeTableWord 32 0x00000021 = some .rxEos ∧
    decodeTableWord 32 0x00000141 = some (.din 0x41 true 0) ∧ decodeTableWord 32 0x00000767 = some .dout :=
  by decide
theorem test_fetch : step (State.reset.withFetchWord 32 0x12) = exec (.din 0x12 false 0) State.reset := rfl
/-- R71, R73: outside the window, misaligned, and narrow accesses. -/
theorem test_bus_faults :
    step { small with queue := [.access (.read 0x400000FC 32)] } = .fault (.notDecoded (.read 0x400000FC 32)) ∧
    step { small with queue := [.access (.read 0x4000013A 32)] } =
      .fault (.busError (.read 0x4000013A 32) 0) ∧
    step { small with queue := [.access (.write 0x40000134 8 1)] } =
      .fault (.busError (.write 0x40000134 8 1) 0) := ⟨rfl, rfl, rfl⟩

/-! ### One step of each instruction -/

/-- T-44-19, T-44-20. -/
theorem test_nop_idle : after (.write 0x10 0) State.reset status = some 0x00000000 := by decide
/-- R241: ABORT in ERROR clears STATUS and leaves INT_STATUS.ERR. -/
theorem test_abort_error :
    after (.write 0x10 1) failed (fun t => (status t, readReg .intStatus t)) = some (0x00000000, 0x2) := by decide
/-- T-44-4 with an all-zero 16-byte key and a 1×1 image: 32 bytes of ciphertext fit a 32-byte buffer. -/
theorem test_encBegin_fits : after (.write 0x10 0x10) ready status = some 0x00000021 := by decide
/-- T-44-3 in small: 3·6 bytes need 48. -/
theorem test_encBegin_capacity :
    after (.write 0x10 0x10) { ready with cfg := { ready.cfg with width := 6 } } status = some 0x00000709 := by
  decide
theorem test_encFinal_complete : after (.write 0x10 0x11) (encrypting3 .encIn 3) status = some 0x00000012 := by
  decide
theorem test_encFinal_short : after (.write 0x10 0x11) (encrypting3 .encIn 2) status = some 0x00000409 := by
  decide
/-- T-44-21. -/
theorem test_decBegin_ok : after (.write 0x10 0x20) ready status = some 0x00000024 := by decide
/-- T-44-5. -/
theorem test_decBegin_badKey :
    after (.write 0x10 0x20) { ready with cfg := { ready.cfg with keylen := 33 } } status = some 0x00000509 := by
  decide
theorem test_rxEos_ct :
    after (.write 0x10 0x21) (decrypting .decCt [] (List.replicate 32 0x30) []) status = some 0x00000017 := by
  decide
/-- T-44-9. -/
theorem test_rxEos_early :
    after (.write 0x10 0x21) (decrypting .decDims [0x34] [] []) status = some 0x00000109 := by decide
/-- R264's example: TOK = "4,", then '2' with LAST. -/
theorem test_din_token :
    after (.write 0x34 0x132) (decrypting .decDims [0x34, 0x2C] [] [])
      (fun t => (readReg .rxDim t, status t)) = some (0x00020004, 0x00000025) := by decide
/-- T-44-7: LAST and bits [31:9] ignored. -/
theorem test_din_plaintext :
    after (.write 0x34 0xFFFFFF41) (encrypting3 .encIn 0)
      (fun t => (readReg .ptlen t, status t, t.work.pt)) = some (1, 0x00000021, [0x41]) := by decide
/-- R265: '4' with VALID is 0x134, and the byte is gone. -/
theorem test_dout_pop :
    after (.read 0x38)
      { lastItem with work := { lastItem.work with outq := ⟨0x34, false, false⟩ :: lastItem.work.outq } }
      (fun t => (t.rdata, status t, t.work.outq.length)) = some (0x00000134, 0x00000043, 1) := by decide
/-- R265: 0x67 with SEG_END and END is 0x767, and the transfer is over. -/
theorem test_dout_end :
    after (.read 0x38) lastItem (fun t => (t.rdata, status t, t.work)) =
      some (0x00000767, 0, Working.empty) := by decide

/-! ### Registers (section 2.5, T-10) -/

/-- T-10-5 and R74: lane 0 is the lowest byte. -/
theorem test_iv_write :
    after (.write 0x64 0x12345678) State.reset (fun t => (readReg (.iv 1) t, t.cfg.ivreg[4], t.cfg.ivreg[7])) =
      some (0x12345678, 0x78, 0x12) := by decide
/-- T-10-3. -/
theorem test_ctrl_hardwired : after (.write 0x0C 0xFFFFFFFF) State.reset (readReg .ctrl) = some 0 := by decide
/-- T-44-6. -/
theorem test_keylen_field : after (.write 0x20 0x7F) State.reset (readReg .keylen) = some 0x3F := by decide
/-- P8: in ERROR only ABORT counts; the first code stays. -/
theorem test_error_filter : after (.write 0x10 0x10) failed status = some 0x00000909 := by decide
/-- R310: a masked bit enabled later raises irq at once. -/
theorem test_irq_enable : after (.write 0x1C 2) failed irq = some true := by decide
/-- R108: SETKEY of three bytes. -/
theorem test_script_setkey :
    (ScriptLine.setkey [0x01, 0x02, 0x03]).expand = [.write 0x20 3, .write 0x40 0x00030201] := by decide

/-! ### Computations, from the vectors of 95_test_vectors.md -/

/-- V-KEX-1: W[4] and W[43]. -/
theorem test_kex :
    (keyExpansion (bytes 16 0x2b7e151628aed2a6abf7158809cf4f3c)).getD 4 Column.zero =
      ⟨0xa0, 0xfa, 0xfe, 0x17⟩ ∧
    (keyExpansion (bytes 16 0x2b7e151628aed2a6abf7158809cf4f3c)).getD 43 Column.zero =
      ⟨0xb6, 0x63, 0x0c, 0xa6⟩ := by decide +kernel
/-- V-AES-1, both ways. -/
theorem test_aes :
    (aesEnc (keyExpansion (bytes 16 0x2b7e151628aed2a6abf7158809cf4f3c))
      (blockOf (bytes 16 0x3243f6a8885a308d313198a2e0370734))).toBytes =
        bytes 16 0x3925841d02dc09fbdc118597196a0b32 ∧
    (aesDec (keyExpansion (bytes 16 0x2b7e151628aed2a6abf7158809cf4f3c))
      (blockOf (bytes 16 0x3925841d02dc09fbdc118597196a0b32))).toBytes =
        bytes 16 0x3243f6a8885a308d313198a2e0370734 := by decide +kernel
/-- S1a: C = Encrypt(K, IV, P). -/
theorem test_encrypt_s1a :
    encrypt key16 iv16 (bytes 24 0x000102030405060708090a0b0c0d0e0f1011121314151617) =
      iv16 ++ bytes 32 0x4872316054d50d5e5221243edfe51484a043c3f682af8891f780256a08a34267 := by
  decide +kernel
/-- V41-14: a 24-byte key. -/
theorem test_encrypt_aes192 :
    (encrypt (bytes 24 0x000102030405060708090a0b0c0d0e0f1011121314151617) (List.replicate 16 0xFF)
      [0xff, 0x00, 0x80]).drop 16 = bytes 16 0xc605afdab5ac540f539543e236ba902e := by decide +kernel
/-- V41-13: a 32-byte key. -/
theorem test_encrypt_aes256 :
    (encrypt (bytes 32 0x000102030405060708090a0b0c0d0e0f101112131415161718191a1b1c1d1e1f)
      (List.replicate 16 0xFF) [0xff, 0x00, 0x80]).drop 16 =
        bytes 16 0x02df8a2060f31d23fd1ecea0bf19e8dd := by decide +kernel
/-- V41-18, V41-19, V41-20, V41-22. -/
theorem test_unpad :
    unpad (List.replicate 14 0 ++ [2, 2]) = some (List.replicate 14 0) ∧
    unpad (List.replicate 15 0 ++ [0x10]) = none ∧ unpad (List.replicate 14 0 ++ [1, 2]) = none ∧
    unpad (List.replicate 15 0 ++ [0x11]) = none := by decide
/-- V-MD5-1 and V-MD5-3. -/
theorem test_md5 :
    (md5 []).toList = bytes 16 0xd41d8cd98f00b204e9800998ecf8427e ∧
    (md5 [0x61, 0x62, 0x63]).toList = bytes 16 0x900150983cd24fb0d6963f7d28e17f72 := by decide +kernel
/-- V-MD5-9: the padding spills into a second block. -/
theorem test_md5_two_blocks :
    (md5 (List.replicate 56 0x61)).toList = bytes 16 0x3b0c8ac703f828b04c6c197006d17218 := by decide +kernel
/-- V42-4. -/
theorem test_hex : hexText [0x51, 0xac, 0xe1] = [0x35, 0x31, 0x61, 0x63, 0x65, 0x31] := by decide
/-- V43-5, V43-8, V43-9, V43-15, V43-17. -/
theorem test_parse_token :
    parseToken [0x34, 0x2C, 0x32] = some (4, 2) ∧ parseToken [0x30, 0x34, 0x2C, 0x32] = none ∧
    parseToken [0x34, 0x2C, 0x30] = none ∧ parseToken [0x2C, 0x32] = none ∧
    parseToken [0x34, 0x2C, 0x32, 0x2C] = none := by decide
/-- V43-4. -/
theorem test_format_token : formatToken 65535 1 = [0x36, 0x35, 0x35, 0x33, 0x35, 0x2C, 0x31] := by decide

/-! ### Witnesses: for each statement of Obligations.lean that has hypotheses, values that meet them, clause by clause
and at the boundaries -/

theorem witness_DecodeAndEncodeAgree :
    Instr.wf (.din 0xFF true 0x7FFFFF) = true ∧
    decodeAccess 0x100 (.write 0x134 32 0xFFFFFFFF) = some (.din 0xFF true 0x7FFFFF) ∧
    decodeAccess 0 (.read 0x38 32) = some .dout := by decide

theorem witness_RegisterMapIsOneToOne :
    regAt 0 = some .id ∧ regAt 0x38 = some .dout ∧ regAt 0x3C = none ∧ regAt 0x7C = some (.digest 3) ∧
    regAt 0x80 = none ∧ regAt 0xFC = none := by decide

theorem witness_IllegalCommandWords :
    commandOf 0x02 = none ∧ commandOf 0x0F = none ∧ commandOf 0x12 = none ∧ commandOf 0x22 = none ∧
    commandOf 0xFF = none ∧ commandOf 0x100 = none ∧ commandOf 0x80000000 = none ∧
    small.seq ≠ .error ∧ failed.seq = .error := by decide

theorem witness_StepRunsTheDecodedInstruction :
    { small with queue := [.access (.write 0x40000110 32 0x10)] }.queue =
      .access (.write 0x40000110 32 0x10) :: [] ∧
    decodeAccess small.params.base (.write 0x40000110 32 0x10) = some .encBegin ∧
    Instr.wf .encBegin = true := by decide

theorem witness_StepTakesTheEngine :
    { goodFrame with queue := [.engine] }.queue = .engine :: [] ∧ goodFrame.queue = [] ∧
    goodFrame.seq.busy = true ∧ small.seq.busy = false := ⟨rfl, rfl, rfl, rfl⟩

/-- Both ends of the window, from both sides. -/
theorem witness_RefusedAccessesFault :
    small.params.base ≤ 0x40000100 ∧ 0x40000100 < small.params.base + 256 ∧ (16 : Nat) ≠ 32 ∧
    0x400001FF < small.params.base + 256 ∧ (0x400001FF - small.params.base) % 4 ≠ 0 ∧
    0x400000FF < small.params.base ∧ small.params.base + 256 ≤ 0x40000200 := by decide

theorem witness_EveryAlignedAccessIsTaken :
    Access.wf small.params.base (.read 0x40000100 32) = true ∧
    Access.wf small.params.base (.write 0x400001FC 32 0) = true ∧
    (∀ off ∈ [0x00, 0xFC], off < 256 ∧ off % 4 = 0) ∧
    { small with queue := [.access (.read 0x40000100 32)] }.queue =
      .access (.read (small.params.base + 0x00) 32) :: [] ∧
    { small with queue := [.access (.write 0x400001FC 32 5)] }.queue =
      .access (.write (small.params.base + 0xFC) 32 5) :: [] := by decide

theorem witness_ResetSetsEveryValue :
    { failed with queue := [.reset] }.queue = .reset :: [] ∧
    Reg.ctrl ≠ .id ∧ Reg.ctrl ≠ .version ∧ Reg.ctrl ≠ .capacity := by decide

/-- A ciphertext of exactly BUF_BYTES; the other two key lengths, and the other IV source. -/
theorem witness_EncBeginLatchesItsOperands :
    ready.seq = .idle ∧ ready.cfg.keylen = 16 ∧ ready.cfg.width ≠ 0 ∧ ready.cfg.height ≠ 0 ∧
    16 + 16 * (3 * ready.cfg.width.toNat * ready.cfg.height.toNat / 16 + 1) = ready.params.bufBytes ∧
    (∃ k, k = ready.cfg.keyreg.toList.take ready.cfg.keylen.toNat) ∧
    (∃ iv, iv = (if ready.cfg.ivsrc then Config.draw16 ready.draws else ready.cfg.ivreg)) ∧
    ({ ready.cfg with keylen := 24, ivsrc := true } : ConfigRegs).keylen = 24 ∧
    ({ ready.cfg with keylen := 32, ivsrc := true } : ConfigRegs).ivsrc = true :=
  ⟨rfl, rfl, by decide, by decide, by decide, ⟨_, rfl⟩, ⟨_, rfl⟩, rfl, rfl⟩

/-- Lengths next to the legal ones; each dimension zero; the first image that does not fit 32 bytes. -/
theorem witness_EncBeginChecksInOrder :
    ready.seq = .idle ∧
    (∀ kl ∈ [(0 : BitVec 6), 15, 17, 23, 25, 31, 33, 63], ¬ (kl = 16 ∨ kl = 24 ∨ kl = 32)) ∧
    ready.cfg.keylen = 16 ∧ small.cfg.width = 0 ∧ small.cfg.height = 0 ∧
    (6 : BitVec 16) ≠ 0 ∧ ready.cfg.height ≠ 0 ∧
    ready.params.bufBytes < 16 + 16 * (3 * (6 : BitVec 16).toNat * ready.cfg.height.toNat / 16 + 1) := by
  decide

theorem witness_EncFinalChecksTheLength :
    (encrypting3 .encIn 3).seq = .encIn ∧
    (encrypting3 .encIn 3).work.pt.length =
      3 * (encrypting3 .encIn 3).work.ww.toNat * (encrypting3 .encIn 3).work.wh.toNat ∧
    (encrypting3 .encIn 2).work.pt.length ≠
      3 * (encrypting3 .encIn 2).work.ww.toNat * (encrypting3 .encIn 2).work.wh.toNat := by decide

theorem witness_DecBeginLatchesTheKey :
    ready.seq = .idle ∧ (∃ k, k = ready.cfg.keyreg.toList.take ready.cfg.keylen.toNat) ∧
    ready.cfg.keylen = 16 ∧ small.seq = .idle ∧
    ¬ (small.cfg.keylen = 16 ∨ small.cfg.keylen = 24 ∨ small.cfg.keylen = 32) :=
  ⟨rfl, ⟨_, rfl⟩, rfl, rfl, by decide⟩

theorem witness_RxEosEndsTheStream :
    (decrypting .decCt [] (List.replicate 32 0x30) []).seq = .decCt ∧
    (decrypting .decDims [] [] []).seq = .decDims ∧ (decrypting .decSum [] [0x30] []).seq = .decSum :=
  ⟨rfl, rfl, rfl⟩

theorem witness_CommandsOutOfSequence :
    (encrypting3 .encProc 3).seq ≠ .error ∧ (encrypting3 .encProc 3).seq ≠ .idle ∧
    (encrypting3 .encProc 3).seq ≠ .encIn ∧ (encrypting3 .encProc 3).seq ≠ .decDims ∧
    (encrypting3 .encProc 3).seq ≠ .decSum ∧ (encrypting3 .encProc 3).seq ≠ .decCt := by decide

/-- A CMD word other than ABORT's, in ERROR. -/
theorem witness_ErrorLastsUntilAbort :
    failed.seq = .error ∧ Instr.rxEos ≠ .abort ∧ Instr.rxEos ≠ .dout ∧ failed.work.outq = [] ∧
    failed.work = Working.empty ∧
    (∃ t, step { failed with queue := [.access (.write 0x40000110 32 0x10)] } = .next t) ∧
    Event.access (.write 0x40000110 32 0x10) ≠ .reset ∧
    (∀ n, Event.access (.write 0x40000110 32 0x10) ≠ .access (.write (failed.params.base + 0x10) n 1)) :=
  ⟨rfl, by decide, by decide, rfl, rfl, ⟨_, rfl⟩, by decide, fun n h => by
    simp only [Event.access.injEq, Access.write.injEq] at h
    exact absurd h.2.2 (by decide)⟩

theorem witness_DinTakesPlaintext :
    (encrypting3 .encIn 2).seq = .encIn ∧
    (encrypting3 .encIn 2).work.pt.length <
      3 * (encrypting3 .encIn 2).work.ww.toNat * (encrypting3 .encIn 2).work.wh.toNat ∧
    (encrypting3 .encIn 3).seq = .encIn ∧
    (encrypting3 .encIn 3).work.pt.length =
      3 * (encrypting3 .encIn 3).work.ww.toNat * (encrypting3 .encIn 3).work.wh.toNat := by decide

/-- No byte, ten bytes and eleven bytes of token; "1,1" parses and "1," does not. -/
theorem witness_DinTakesTheToken :
    (decrypting .decDims (List.replicate 11 0x31) [] []).seq = .decDims ∧
    (decrypting .decDims (List.replicate 11 0x31) [] []).work.tok.length = 11 ∧
    (decrypting .decDims (List.replicate 10 0x31) [] []).work.tok.length ≠ 11 ∧
    (decrypting .decDims [] [] []).work.tok.length ≠ 11 ∧
    parseToken ((decrypting .decDims [0x31] [] []).work.tok ++ [0x2C]) = none ∧
    parseToken ((decrypting .decDims [0x31, 0x2C] [] []).work.tok ++ [0x31]) = some (1, 1) := by decide

theorem witness_DinTakesTheChecksum :
    (decrypting .decSum [] (List.replicate 30 0x30) []).seq = .decSum ∧
    (decrypting .decSum [] (List.replicate 30 0x30) []).work.sum.length ≠ 31 ∧
    (decrypting .decSum [] (List.replicate 31 0x30) []).work.sum.length = 31 := by decide

/-- BUF one byte short of BUF_BYTES = 32, and full. -/
theorem witness_DinTakesCiphertext :
    (decrypting .decCt [] (List.replicate 32 0x30) (List.replicate 31 0)).seq = .decCt ∧
    (decrypting .decCt [] (List.replicate 32 0x30) (List.replicate 31 0)).work.buf.length ≠
      small.params.bufBytes ∧
    (decrypting .decCt [] (List.replicate 32 0x30) (List.replicate 32 0)).work.buf.length =
      small.params.bufBytes := by decide

theorem witness_DinOutOfSequence :
    small.seq = .idle ∧ (encrypting3 .encProc 3).seq = .encProc ∧ lastItem.seq = .encOut ∧
    goodFrame.seq = .decProc ∧ ({ goodFrame with seq := .decOut } : State).seq = .decOut :=
  ⟨rfl, rfl, rfl, rfl, rfl⟩

theorem witness_DinIgnoredBits : (encrypting3 .encIn 0).seq ≠ .decDims := by decide

theorem witness_DoutPopsOneItem :
    small.work.outq = [] ∧ lastItem.work.outq = [⟨0x67, true, true⟩] ∧
    (⟨0x34, false, false⟩ : OutItem).last = false ∧ (⟨0x67, true, true⟩ : OutItem).last = true := by decide

theorem witness_EngineCompletesEncryption :
    (encrypting3 .encProc 3).seq = .encProc ∧
    ∃ c, c = encrypt (encrypting3 .encProc 3).work.wkey (encrypting3 .encProc 3).work.wiv.toList
      (encrypting3 .encProc 3).work.pt := ⟨rfl, _, rfl⟩

/-- The invariants in ENC_PROC. -/
theorem witness_inv_encProc : SequencerInv (encrypting3 .encProc 3) := by
  constructor
  case listed => constructor <;> decide
  case key => exact fun _ _ => ⟨by decide, rfl⟩
  all_goals decide

/-- The invariants in DEC_DIMS. -/
theorem witness_inv_decDims : SequencerInv (decrypting .decDims [] [] []) := by
  constructor
  case listed => constructor <;> decide
  case key => exact fun _ _ => ⟨by decide, rfl⟩
  all_goals decide

/-- The invariants in ERROR. -/
theorem witness_inv_error : SequencerInv failed := by
  constructor
  case listed => constructor <;> decide
  all_goals decide

/-- The invariants in DEC_PROC with a good frame. -/
theorem witness_inv_decProc : SequencerInv goodFrame := by
  constructor
  case listed => constructor <;> decide +kernel
  case key => exact fun _ _ => ⟨by decide, rfl⟩
  all_goals decide +kernel

theorem witness_CompletionUsesTheLatchedSchedule :
    SequencerInv (encrypting3 .encProc 3) ∧ (encrypting3 .encProc 3).seq = .encProc :=
  ⟨witness_inv_encProc, rfl⟩

/-- Each of the four outcomes: a checksum that does not match, a ciphertext too short under its own checksum, a length
that does not match, and a good frame. -/
theorem witness_EngineCompletesDecryption :
    goodFrame.seq = .decProc ∧
    (decrypting .decProc [] (List.replicate 32 0x30) ct).work.sum ≠ hexText (md5 ct).toList ∧
    goodFrame.work.sum = hexText (md5 goodFrame.work.buf).toList ∧
    decrypt (List.replicate 16 0) [] = none ∧
    decrypt goodFrame.work.wkey goodFrame.work.buf = some [0, 0, 0] ∧
    [0, 0, 0].length ≠ 3 * (2 : BitVec 16).toNat * (1 : BitVec 16).toNat ∧
    [0, 0, 0].length = 3 * goodFrame.res.rxWidth.toNat * goodFrame.res.rxHeight.toNat := by decide +kernel

/-- A step that releases plaintext, and one that ends in ERROR. -/
theorem witness_NoPartialPlaintext :
    SequencerInv goodFrame ∧ step goodFrame = .next (engineStep goodFrame) ∧
    (engineStep goodFrame).seq = .decOut ∧ goodFrame.seq ≠ .decOut ∧
    SequencerInv failed ∧ step failed = .next failed ∧ failed.seq = .error :=
  ⟨witness_inv_decProc, rfl, by decide +kernel, by decide, witness_inv_error, rfl, rfl⟩

theorem witness_PlainRegisterAccesses :
    Reg.status ≠ .dout ∧
    { small with queue := [.access (.read 0x40000114 32)] }.queue =
      .access (.read (small.params.base + Reg.status.offset) 32) :: [] ∧
    ∃ t, step { small with queue := [.reset] } = .next t :=
  ⟨by decide, by decide, ⟨_, rfl⟩⟩

theorem witness_IdentityNeverChanges :
    { small with queue := [.access (.read 0x40000100 32)] }.queue =
      .access (.read (small.params.base + 0x00) 32) :: [] ∧
    { small with queue := [.access (.read 0x40000104 32)] }.queue =
      .access (.read (small.params.base + 0x04) 32) :: [] ∧
    { small with queue := [.access (.write 0x40000104 32 5)] }.queue =
      .access (.write (small.params.base + 0x04) 32 5) :: [] := by decide

theorem witness_ReservedOffsetsAreInert :
    (∀ off ∈ [0x3C, 0x80, 0xFC], off < 256 ∧ off % 4 = 0 ∧ (off = 0x3C ∨ 0x80 ≤ off)) ∧
    { small with queue := [.access (.read 0x400001FC 32)] }.queue =
      .access (.read (small.params.base + 0xFC) 32) :: [] ∧
    { small with queue := [.access (.write 0x4000013C 32 5)] }.queue =
      .access (.write (small.params.base + 0x3C) 32 5) :: [] := by decide

/-- A key register written while the engine is busy, and a plaintext byte taken. -/
theorem witness_ConfigurationIsLatchedAtBegin :
    Reg.key 0 ≠ .cmd ∧ Reg.key 0 ≠ .din ∧ Reg.key 0 ≠ .intStatus ∧
    (∃ t, busOp (.write (Reg.key 0).offset 0x12345678) (encrypting3 .encProc 3) = .next t) ∧
    Instr.din 0x41 false 0 ≠ .encBegin ∧ Instr.din 0x41 false 0 ≠ .decBegin ∧
    ∃ t, exec (.din 0x41 false 0) (encrypting3 .encIn 2) = .next t :=
  ⟨by decide, by decide, by decide, ⟨_, rfl⟩, by decide, by decide, ⟨_, rfl⟩⟩

/-- The first and the last byte, and another IV register. -/
theorem witness_IvAndDigestRegistersHoldLanes : 0 < 16 ∧ 15 < 16 ∧ (3 : Fin 4) ≠ 0 := by decide

/-- The first and the last byte. -/
theorem witness_KeyRegistersHoldLanes : 0 < 32 ∧ 31 < 32 := by decide

theorem witness_KeyCannotBeReadBack :
    decode (.read 0x40) ≠ .ok .encBegin ∧ decode (.read 0x40) ≠ .ok .decBegin ∧
    (∃ t, busOp (.read 0x40) ready = .next t) ∧
    ∃ u, busOp (.read 0x40) { ready with cfg := { ready.cfg with keyreg := Vector.replicate 32 0xFF } } =
      .next u :=
  ⟨by decide, by decide, ⟨_, rfl⟩, ⟨_, rfl⟩⟩

/-- Both bits set, and ABORT next. -/
theorem witness_InterruptBitsAreSticky :
    let s := { failed with intDone := true, queue := [.access (.write 0x40000110 32 1)] }
    (∃ t, step s = .next t) ∧
    (∀ (rest : List Event) (v : Word) (n : Nat),
      s.queue ≠ .access (.write (s.params.base + 0x18) n v) :: rest) ∧
    (∀ rest : List Event, s.queue ≠ .reset :: rest) ∧ s.intDone = true ∧ s.intErr = true :=
  ⟨⟨_, rfl⟩,
    fun rest v n h => by
      have h := (List.cons.inj h).1
      simp only [Event.access.injEq, Access.write.injEq] at h
      exact absurd h.1 (by decide),
    fun rest h => Event.noConfusion (List.cons.inj h).1, rfl, rfl⟩

/-- Both bounds of BUF_BYTES. -/
theorem witness_ResetHasTheInvariants :
    Params.wf ⟨32, true, 0x100⟩ = true ∧ Params.wf ⟨2 ^ 31, false, 0⟩ = true := by decide

theorem witness_EveryStepKeepsTheInvariants :
    SequencerInv (encrypting3 .encProc 3) ∧
    step (encrypting3 .encProc 3) = .next (engineStep (encrypting3 .encProc 3)) :=
  ⟨witness_inv_encProc, rfl⟩

/-- A reachable state beyond reset: ERROR, by an illegal word. -/
theorem witness_ListedInvariantsHoldWhenReachable : Reachable failed :=
  .step { small with queue := [.access (.write 0x40000110 32 0xFF)] } failed
    (.reset small.params [.access (.write 0x40000110 32 0xFF)] (by decide)) rfl

/-- A listed transition: the completion of an encryption. -/
theorem witness_TransitionTableIsExact :
    let s := { encrypting3 .encProc 3 with queue := [.engine] }
    SequencerInv s ∧ s.queue = .engine :: [] ∧ Event.engine ≠ .reset ∧ (∃ t, step s = .next t) ∧
    Listed s (causeOf s.params.base .engine) .encOut .noError := by
  refine ⟨?_, rfl, by decide, ⟨_, rfl⟩, .encComplete rfl⟩
  constructor
  case listed => constructor <;> decide
  case key => exact fun _ _ => ⟨by decide, rfl⟩
  all_goals decide

theorem witness_SboxMatchesItsDefinition : (0x53 : Byte) ≠ 0 := by decide

/-- The three lengths, and the first and last word each clause speaks of. -/
theorem witness_KeyScheduleFollowsItsRule :
    (List.replicate 16 (0 : Byte)).length = 16 ∧ (List.replicate 24 (0 : Byte)).length = 24 ∧
    (List.replicate 32 (0 : Byte)).length = 32 ∧ 3 < 16 / 4 ∧ 3 < 4 ∧ 16 / 4 ≤ 4 ∧
    43 < 4 * (16 / 4 + 6 + 1) ∧ 59 < 4 * (32 / 4 + 6 + 1) := by decide

theorem witness_CbcDecUndoesEnc :
    iv16.length = 16 ∧ ([] : List Byte).length % 16 = 0 ∧ (List.replicate 32 (0 : Byte)).length % 16 = 0 := by
  decide

theorem witness_PaddingAndCiphertextLengths : iv16.length = 16 := by decide

theorem witness_DecryptUndoesEncrypt :
    (bytes 24 1).length = 24 ∧ key16.length = 16 ∧ (bytes 32 1).length = 32 ∧ iv16.length = 16 := by decide

/-- The least k for 55, 56 and 0 bytes (R191), and one that is not the least. -/
theorem witness_DigestPadding :
    (55 + 1 + 0) % 64 = 56 ∧ (56 + 1 + 63) % 64 = 56 ∧ (0 + 1 + 55) % 64 = 56 ∧ (0 + 1 + 119) % 64 = 56 := by
  decide

theorem witness_ChecksumText :
    (0x61 : Byte) ∈ hexText [0xAF] ∧ hexText [0xAF] = hexText [0xAF] ∧
    ∃ digits : List Byte, digits =
      [0x30, 0x31, 0x32, 0x33, 0x34, 0x35, 0x36, 0x37, 0x38, 0x39, 0x61, 0x62, 0x63, 0x64, 0x65, 0x66] :=
  ⟨by decide, rfl, ⟨_, rfl⟩⟩

theorem witness_TokensParseExactly :
    1 ≤ 1 ∧ 1 ≤ 65535 ∧ 65535 ≤ 65535 ∧ parseToken [0x31, 0x2C, 0x31] = some (1, 1) := by decide

theorem witness_SerializerMarksTheSegments :
    [(0 : Byte)] ≠ [] ∧ (serializerQueue 1 1 [0])[0]? = some ⟨0x31, false, false⟩ := by decide +kernel

/-- The empty ciphertext and one of exactly BUF_BYTES. -/
theorem witness_FrameRoundTrip :
    let s := decrypting .decDims [] [] []
    s.seq = .decDims ∧ s.work.tok = [] ∧ s.work.sum = [] ∧ s.work.buf = [] ∧
    ([] : List Byte).length ≤ s.params.bufBytes ∧
    (List.replicate 32 (0 : Byte)).length ≤ s.params.bufBytes := by decide

theorem witness_EndToEnd :
    SequencerInv (encrypting3 .encProc 3) ∧ SequencerInv (decrypting .decDims [] [] []) ∧
    (encrypting3 .encProc 3).seq = .encProc ∧ (decrypting .decDims [] [] []).seq = .decDims ∧
    (decrypting .decDims [] [] []).work.tok = [] ∧
    (decrypting .decDims [] [] []).work.wkey = (encrypting3 .encProc 3).work.wkey ∧
    (encrypting3 .encProc 3).params.bufBytes ≤ (decrypting .decDims [] [] []).params.bufBytes :=
  ⟨witness_inv_encProc, witness_inv_decDims, rfl, rfl, rfl, rfl, by decide⟩

end Sys2Proof.Tests
end

/-! PROOFS. The register window as a host sees it: what the next aligned 32-bit access does to the machine, at the
offset of a register and at an offset that holds none (spec/10_state.md section 2). -/

namespace Sys2Proof.Proofs

open Sys2Proof Sys2Proof.Machine Sys2Proof.Laws

/-- R72: the step at an aligned access in the window is the operation at its offset. -/
theorem step_of_toAccess {s : State} {rest : List Event} {op : BusOp} (hwf : op.wf = true)
    (hq : s.queue = .access (op.toAccess s.params.base) :: rest) :
    step s = busOp op { s with queue := rest } := by
  simp [step, hq, takeEvent, hostAccess, addressDecode_toAccess _ _ hwf]

theorem step_read_eq_busOp {s : State} {rest : List Event} {off : Nat} (hlt : off < 256) (hal : off % 4 = 0)
    (hq : s.queue = .access (.read (s.params.base + off) 32) :: rest) :
    step s = busOp (.read off) { s with queue := rest } :=
  step_of_toAccess (by simp [BusOp.wf, hlt, hal]) hq

theorem step_write_eq_busOp {s : State} {rest : List Event} {off : Nat} {v : Word} (hlt : off < 256) (hal : off % 4 = 0)
    (hq : s.queue = .access (.write (s.params.base + off) 32 v) :: rest) :
    step s = busOp (.write off v) { s with queue := rest } :=
  step_of_toAccess (by simp [BusOp.wf, hlt, hal]) hq

/-- R267: a read at the offset of any register but DOUT returns that register's word and does nothing else. -/
theorem busOp_read_register {off : Nat} {r : Reg} (hr : regAt off = some r) (hdout : r ≠ .dout) (s : State) :
    busOp (.read off) s = .next { s with rdata := readReg r s } := by
  have hdec : decode (.read off) = .error (.registerRead r) := by
    cases r with
    | dout => contradiction
    | _ => simp only [decode, hr]
  simp [busOp, hdec, respond]

/-- R267: a write at the offset of any register but CMD and DIN is the write of that register. -/
theorem busOp_write_register {off : Nat} {r : Reg} (hr : regAt off = some r) (hcmd : r ≠ .cmd) (hdin : r ≠ .din)
    (v : Word) (s : State) : busOp (.write off v) s = .next (writeReg r v s) := by
  have hdec : decode (.write off v) = .error (.registerWrite r v) := by
    cases r with
    | cmd => contradiction
    | din => contradiction
    | _ => simp only [decode, hr]
  simp [busOp, hdec]

/-- R40: a read where there is no register returns 0. -/
theorem busOp_read_reserved {off : Nat} (hr : regAt off = none) (s : State) :
    busOp (.read off) s = .next { s with rdata := 0 } := by
  simp [busOp, decode, hr, respond]

/-- R40: a write where there is no register is ignored. -/
theorem busOp_write_reserved {off : Nat} (hr : regAt off = none) (v : Word) (s : State) :
    busOp (.write off v) s = .next s := by
  simp [busOp, decode, hr]

/-- 10_state.md section 2: the map from offsets to registers gives each register at its own offset only. -/
theorem eq_offset_of_regAt {off : Nat} {r : Reg} (hr : regAt off = some r) : off = r.offset := by
  unfold regAt at hr
  split at hr <;> cases hr <;> rfl

theorem regOffset_lt (r : Reg) : r.offset < 0x80 := by
  cases r <;> simp only [Reg.offset] <;> omega

theorem regOffset_ne_hole (r : Reg) : r.offset ≠ 0x3C := by
  cases r <;> simp only [Reg.offset] <;> omega

/-- R40: the hole at 0x3C and everything from 0x80 on hold no register. -/
theorem regAt_reserved {off : Nat} (h : off = 0x3C ∨ 0x80 ≤ off) : regAt off = none := by
  cases hr : regAt off with
  | none => rfl
  | some r =>
    have hoff := eq_offset_of_regAt hr
    have hlt := regOffset_lt r
    have hne := regOffset_ne_hole r
    omega

/-- Settles O32: ID and VERSION are read through the register read, and their register write is the identity. -/
theorem identityNeverChanges : Obligations.IdentityNeverChanges := by
  intro s rest v
  refine ⟨fun hq => ?_, fun hq => ?_, fun hq => ?_⟩
  · rw [step_read_eq_busOp (by decide) (by decide) hq, busOp_read_register (r := .id) rfl (by decide)]
    rfl
  · rw [step_read_eq_busOp (by decide) (by decide) hq, busOp_read_register (r := .version) rfl (by decide)]
    rfl
  · obtain hid | hversion := hq
    · rw [step_write_eq_busOp (by decide) (by decide) hid, busOp_write_register (r := .id) rfl (by decide) (by decide)]
      rfl
    · rw [step_write_eq_busOp (by decide) (by decide) hversion,
        busOp_write_register (r := .version) rfl (by decide) (by decide)]
      rfl

/-- Settles O33: the reserved offsets are aligned accesses in the window that meet no register. -/
theorem reservedOffsetsAreInert : Obligations.ReservedOffsetsAreInert := by
  intro s rest off v hlt hal hres
  have hnone := regAt_reserved hres
  refine ⟨fun hq => ?_, fun hq => ?_⟩
  · rw [step_read_eq_busOp hlt hal hq, busOp_read_reserved hnone]
  · rw [step_write_eq_busOp hlt hal hq, busOp_write_reserved hnone]

end Sys2Proof.Proofs

/-! PROOFS. The byte arithmetic of AES and the substitution tables (spec/40_aes.md R132 to R135). The model finds an
inverse by search; associativity of • makes an inverse unique, so that checking one candidate for each byte is enough. -/

namespace Sys2Proof.Proofs

open Sys2Proof Sys2Proof.Machine Sys2Proof.Laws

/-- The XOR of `f i` over the bits `i` of `l` that are set in `b`, onto `acc`: the sum that R132's product is. -/
def xorSelected (b : Byte) (f : Nat → Byte) (acc : Byte) (l : List Nat) : Byte :=
  l.foldl (fun acc i => acc ^^^ (if b.getLsbD i then f i else 0)) acc

theorem gmul_eq_xorSelected (a b : Byte) : gmul a b = xorSelected b (fun i => xtimes i a) 0 (List.range 8) := rfl

theorem xorSelected_cons (b : Byte) (f : Nat → Byte) (acc : Byte) (i : Nat) (l : List Nat) :
    xorSelected b f acc (i :: l) = xorSelected b f (acc ^^^ (if b.getLsbD i then f i else 0)) l := rfl

theorem ite_getLsbD_xor (b c v : Byte) (i : Nat) :
    (if (b ^^^ c).getLsbD i then v else 0) = (if b.getLsbD i then v else 0) ^^^ (if c.getLsbD i then v else 0) := by
  cases hb : b.getLsbD i <;> cases hc : c.getLsbD i <;> simp [hb, hc]

theorem xor_xor_xor_comm (t u v w : Byte) : (t ^^^ u) ^^^ (v ^^^ w) = (t ^^^ v) ^^^ (u ^^^ w) := by
  ac_rfl

/-- The sum is additive in the byte that selects. -/
theorem xorSelected_xor (b c : Byte) (f : Nat → Byte) (l : List Nat) (u v : Byte) :
    xorSelected (b ^^^ c) f (u ^^^ v) l = xorSelected b f u l ^^^ xorSelected c f v l := by
  induction l generalizing u v with
  | nil => rfl
  | cons i l ih => rw [xorSelected_cons, ite_getLsbD_xor, xor_xor_xor_comm, ih, ← xorSelected_cons, ← xorSelected_cons]

/-- An additive function goes through the sum. -/
theorem map_xorSelected {g : Byte → Byte} (hg : ∀ u v, g (u ^^^ v) = g u ^^^ g v) (b : Byte) (f : Nat → Byte)
    (l : List Nat) (acc : Byte) : g (xorSelected b f acc l) = xorSelected b (fun i => g (f i)) (g acc) l := by
  have hzero : g 0 = 0 := by simpa using hg 0 0
  induction l generalizing acc with
  | nil => rfl
  | cons i l ih => simp only [xorSelected_cons, ih, hg, apply_ite g, hzero]

/-- R132: • distributes over ⊕. -/
theorem gmul_xor (a b c : Byte) : gmul a (b ^^^ c) = gmul a b ^^^ gmul a c :=
  xorSelected_xor b c _ _ 0 0

theorem gmul_zero (a : Byte) : gmul a 0 = 0 := by
  simpa using gmul_xor a 0 0

theorem xtime_xor (a b : Byte) : xtime (a ^^^ b) = xtime a ^^^ xtime b := by
  rw [xtime, BitVec.shiftLeft_xor_distrib, ite_getLsbD_xor, xor_xor_xor_comm, ← xtime, ← xtime]

/-- R132: multiplication by the low part 0x1B of m(x) is multiplication by x^8. -/
theorem gmul_reduction : ∀ a : Byte, gmul a 0x1B = xtimes 8 a := by decide +kernel

/-- A shifted byte selects one place further up; what it loses is the term of bit 7. -/
theorem xorSelected_shiftLeft (b : Byte) (f : Nat → Byte) :
    xorSelected (b <<< 1) f 0 (List.range 8) ^^^ (if b.getLsbD 7 then f 8 else 0) =
      xorSelected b (fun i => f (i + 1)) 0 (List.range 8) := by
  simp [xorSelected, List.range_succ]

/-- R132: • takes xtime out of its second factor. -/
theorem gmul_xtime (a b : Byte) : gmul a (xtime b) = xtime (gmul a b) :=
  calc gmul a (xtime b) = gmul a (b <<< 1) ^^^ gmul a (if b.getLsbD 7 then 0x1B else 0) := gmul_xor ..
    _ = gmul a (b <<< 1) ^^^ (if b.getLsbD 7 then xtimes 8 a else 0) := by
      rw [apply_ite (gmul a), gmul_reduction, gmul_zero]
    _ = xorSelected b (fun i => xtimes (i + 1) a) 0 (List.range 8) := xorSelected_shiftLeft ..
    _ = xtime (gmul a b) := by
      rw [gmul_eq_xorSelected, map_xorSelected xtime_xor]
      rfl

theorem gmul_xtimes (a b : Byte) (i : Nat) : gmul a (xtimes i b) = xtimes i (gmul a b) := by
  induction i with
  | zero => rfl
  | succ i ih => simp [xtimes, gmul_xtime, ih]

theorem gmul_assoc (a b c : Byte) : gmul a (gmul b c) = gmul (gmul a b) c := by
  rw [gmul_eq_xorSelected b c, map_xorSelected (gmul_xor a)]
  simp only [gmul_xtimes, gmul_zero, ← gmul_eq_xorSelected]

theorem one_gmul : ∀ a : Byte, gmul 1 a = a := by decide +kernel

theorem gmul_one (a : Byte) : gmul a 1 = a := by
  simp [gmul, List.range_succ, xtimes]

/-- R132: a byte with a left inverse has at most one right inverse. -/
theorem eq_of_gmul_eq_one {a b c : Byte} (hb : gmul b a = 1) (hc : gmul a c = 1) : c = b :=
  calc c = gmul (gmul b a) c := by rw [hb, one_gmul]
    _ = gmul b (gmul a c) := (gmul_assoc b a c).symm
    _ = b := by rw [hc, gmul_one]

/-- R132: where there is an inverse, the search finds one. -/
theorem gmul_byteInverse_of_gmul_eq_one {a b : Byte} (h : gmul a b = 1) : gmul a (byteInverse a) = 1 := by
  unfold byteInverse
  cases hfind : ((List.range 256).map (BitVec.ofNat 8)).find? (fun b => gmul a b == 1) with
  | none =>
    have hmem : b ∈ (List.range 256).map (BitVec.ofNat 8) :=
      List.mem_map.2 ⟨b.toNat, List.mem_range.2 b.isLt, by simp⟩
    exact absurd h (by simpa using List.find?_eq_none.1 hfind b hmem)
  | some c => simpa using List.find?_some hfind

/-- R134: the affine image of a byte. -/
def affine (b : Byte) : Byte :=
  b ^^^ b.rotateRight 4 ^^^ (b.rotateRight 5 ^^^ b.rotateRight 6) ^^^ (b.rotateRight 7 ^^^ 0x63)

/-- The inverse of R134's affine map. -/
def invAffine (b : Byte) : Byte := b.rotateLeft 1 ^^^ b.rotateLeft 3 ^^^ b.rotateLeft 6 ^^^ 0x05

/-- R134: the affine map is onto, by this inverse. -/
theorem affine_invAffine : ∀ b : Byte, affine (invAffine b) = b := by decide +kernel

/-- R134: bit i of the affine image. -/
theorem affine_getLsbD (b : Byte) (i : Fin 8) :
    (affine b).getLsbD i.val =
      ((b.getLsbD i.val ^^ b.getLsbD ((i.val + 4) % 8)) ^^
        (b.getLsbD ((i.val + 5) % 8) ^^ b.getLsbD ((i.val + 6) % 8)) ^^
        (b.getLsbD ((i.val + 7) % 8) ^^ (0x63 : Byte).getLsbD i.val)) := by
  fin_cases i <;> simp [affine]

/-- The candidate inverse of each byte: what the table's entry is the affine image of. -/
theorem invAffine_sbox_inverse :
    ∀ x : Byte, x ≠ 0 → gmul (invAffine (sbox x)) x = 1 ∧ gmul x (invAffine (sbox x)) = 1 := by decide +kernel

theorem gmul_byteInverse {x : Byte} (hx : x ≠ 0) : gmul x (byteInverse x) = 1 :=
  gmul_byteInverse_of_gmul_eq_one (invAffine_sbox_inverse x hx).2

theorem byteInverse_zero : byteInverse 0 = 0 := by decide +kernel

theorem byteInverse_eq (x : Byte) : byteInverse x = invAffine (sbox x) := by
  by_cases hx : x = 0
  · subst hx
    exact byteInverse_zero
  · exact eq_of_gmul_eq_one (invAffine_sbox_inverse x hx).1 (gmul_byteInverse hx)

/-- R134: the table is the affine image of the inverse. -/
theorem sbox_eq_affine_byteInverse (x : Byte) : sbox x = affine (byteInverse x) := by
  rw [byteInverse_eq, affine_invAffine]

theorem sbox_no_fixed_points : ∀ x : Byte, sbox x ≠ x ∧ sbox x ≠ x ^^^ 0xFF := by decide +kernel

/-- Settles O47: the table is the affine image of the one inverse there is, and what R134 says beside that is read off
the tables. -/
theorem sboxMatchesItsDefinition : Obligations.SboxMatchesItsDefinition := by
  intro x
  obtain ⟨hfixed, hopposite⟩ := sbox_no_fixed_points x
  refine ⟨fun i => ?_, gmul_byteInverse, invSbox_sbox x, hfixed, hopposite, by decide, by decide, by decide, by decide⟩
  rw [sbox_eq_affine_byteInverse, affine_getLsbD]

end Sys2Proof.Proofs

/-! PROOFS. The two commands that are legal in every state, NOP and ABORT (spec/44_commands.md R240, R241). -/

namespace Sys2Proof.Proofs

open Sys2Proof Sys2Proof.Machine Sys2Proof.Laws

/-- R240, R242, R266: in ERROR the command is ignored, elsewhere its body does nothing, and it is never out of
sequence. -/
theorem command_nop (s : State) : command .nop (fun s => s) s = s := by
  obtain ⟨_, hignored⟩ | ⟨_, _, hbody⟩ | ⟨_, hillegal, _⟩ := command_cases .nop (fun s => s) s
  · exact hignored
  · exact hbody
  · exact absurd hillegal (by simp [legal])

/-- R241: ABORT is acted on whatever the state is. -/
theorem exec_abort (s : State) : exec .abort s = .next (abortTransfer s) := rfl

/-- R9, R27: the engine has a completion to take in ENC_PROC and DEC_PROC only. -/
theorem engineStep_of_not_busy {s : State} (hnotBusy : s.seq.busy = false) : engineStep s = s := by
  unfold engineStep
  cases hseq : s.seq with
  | encProc => simp [hseq, SeqState.busy] at hnotBusy
  | decProc => simp [hseq, SeqState.busy] at hnotBusy
  | _ => rfl

/-- Settles O10: the dispatch of a CMD write leaves NOP nothing to do. -/
theorem nopDoesNothing : Obligations.NopDoesNothing := by
  intro s
  exact congrArg Host.Outcome.next (command_nop s)

/-- Settles O11: ABORT ends in IDLE, where the engine has nothing pending. -/
theorem abortReturnsToIdle : Obligations.AbortReturnsToIdle := by
  intro s
  have hnotBusy : (abortTransfer s).seq.busy = false := by simp [SeqState.busy]
  exact ⟨abortTransfer s, exec_abort s, rfl, engineStep_of_not_busy hnotBusy⟩

end Sys2Proof.Proofs

/-! PROOFS. Decoding and encoding (spec/30_encoding.md R100 to R107; spec/10_state.md section 2): an access is an
instruction's encoding exactly when it decodes to the instruction, and the register map is one to one. -/

namespace Sys2Proof.Proofs

open Sys2Proof Sys2Proof.Machine Sys2Proof.Laws Sys2Proof.Safety

/-- R100, R107: what Laws/PerInstr.lean says of each constructor, for every instruction. -/
theorem encodedInWindow : ∀ i : Instr, EncodedInWindow.Statement i
  | .nop => EncodedInWindow.nop
  | .abort => EncodedInWindow.abort
  | .encBegin => EncodedInWindow.encBegin
  | .encFinal => EncodedInWindow.encFinal
  | .decBegin => EncodedInWindow.decBegin
  | .rxEos => EncodedInWindow.rxEos
  | .din data last ignored => EncodedInWindow.din data last ignored
  | .dout => EncodedInWindow.dout

/-- R103: a word with zeros in [31:8] is its lowest byte. -/
theorem toNat_of_high_eq_zero {v : Word} (hhigh : v.extractLsb' 8 24 = 0) :
    v.toNat = (v.extractLsb' 0 8).toNat := by
  have hzero := congrArg BitVec.toNat hhigh
  have hlt := v.isLt
  simp only [BitVec.extractLsb'_toNat, BitVec.toNat_zero, Nat.shiftRight_eq_div_pow, BitVec.ofNat_eq_ofNat] at hzero ⊢
  omega

/-- R102: the CMD word of each command. -/
theorem commandOf_cases {v : Word} {i : Instr} (h : commandOf v = some i) :
    (v = 0x00 ∧ i = .nop) ∨ (v = 0x01 ∧ i = .abort) ∨ (v = 0x10 ∧ i = .encBegin) ∨
    (v = 0x11 ∧ i = .encFinal) ∨ (v = 0x20 ∧ i = .decBegin) ∨ (v = 0x21 ∧ i = .rxEos) := by
  unfold commandOf at h
  split at h
  · contradiction
  · rename_i hhigh
    have hv := toNat_of_high_eq_zero (not_not.1 hhigh)
    split at h <;> cases h <;> rename_i hlow <;> rw [hlow] at hv <;> simp [← BitVec.toNat_inj, hv]

/-- R103: which CMD words select no command. -/
theorem commandOf_eq_none_iff (v : Word) : commandOf v = none ↔
    v.extractLsb' 8 24 ≠ 0 ∨ v.extractLsb' 0 8 ∉ [(0x00 : Byte), 0x01, 0x10, 0x11, 0x20, 0x21] := by
  unfold commandOf
  split
  · rename_i hhigh
    exact iff_of_true rfl (.inl hhigh)
  · rename_i hhigh
    split <;> simp_all [← BitVec.toNat_inj]

theorem encode_of_commandOf {v : Word} {i : Instr} (h : commandOf v = some i) : encode i = .write 0x10 v := by
  obtain ⟨rfl, rfl⟩ | ⟨rfl, rfl⟩ | ⟨rfl, rfl⟩ | ⟨rfl, rfl⟩ | ⟨rfl, rfl⟩ | ⟨rfl, rfl⟩ := commandOf_cases h <;> rfl

/-- R104: a DIN word is made of its fields. -/
theorem dinWord_fields (v : Word) : dinWord (v.extractLsb' 0 8) (v.getLsbD 8) (v.extractLsb' 9 23) = v := by
  apply BitVec.eq_of_getLsbD_eq
  intro i hi
  rw [dinWord_getLsbD]
  split
  · simp [*]
  · split
    · have h8 : i = 8 := by omega
      simp [h8]
    · have hfield : 9 + (i - 8 - 1) = i := by omega
      have hlt : i - 8 - 1 < 23 := by omega
      simp [hfield, hlt]

theorem encode_dinOf (v : Word) : encode (dinOf v) = .write 0x34 v := by
  simp only [dinOf, encode, dinWord_fields]

/-- R100, R107: an operation that decodes to an instruction is that instruction's encoding. -/
theorem eq_encode_of_decode {op : BusOp} {i : Instr} (h : decode op = .ok i) : op = encode i := by
  cases op with
  | read off =>
    simp only [decode] at h
    split at h <;> cases h
    rename_i hreg
    rw [eq_offset_of_regAt hreg]
    rfl
  | write off v =>
    simp only [decode] at h
    split at h
    · contradiction
    · rename_i hreg
      split at h <;> cases h
      rename_i hcmd
      rw [eq_offset_of_regAt hreg, encode_of_commandOf hcmd]
      rfl
    · rename_i hreg
      cases h
      rw [eq_offset_of_regAt hreg, encode_dinOf]
      rfl
    · contradiction

/-- R72, R100: a bus access is an instruction where the address decoder takes it and its operation decodes to it. -/
theorem decodeAccess_eq_some {base : Nat} {a : Access} {i : Instr} (h : decodeAccess base a = some i) :
    ∃ op, addressDecode base a = .ok op ∧ decode op = .ok i := by
  unfold decodeAccess at h
  split at h
  · contradiction
  · rename_i op haddr
    split at h <;> cases h
    exact ⟨op, haddr, ‹_›⟩

/-- Settles O1: the address decoder and the word decoder each invert their encoder, and keep every bit. -/
theorem decodeAndEncodeAgree : Obligations.DecodeAndEncodeAgree := by
  refine ⟨fun base i _ => ?_, fun base a i h => ?_⟩
  · obtain ⟨_, hwindow, hdecode⟩ := encodedInWindow i
    simp only [decodeAccess, addressDecode_toAccess base _ hwindow, hdecode]
  · obtain ⟨op, haddr, hdecode⟩ := decodeAccess_eq_some h
    obtain ⟨_, ha⟩ := addressDecode_ok haddr
    rw [ha, eq_encode_of_decode hdecode]

/-- 10_state.md section 2: each register is found at its own offset. -/
theorem regAt_offset (r : Reg) : regAt r.offset = some r := by
  cases r with
  | key k => fin_cases k <;> rfl
  | iv k => fin_cases k <;> rfl
  | digest k => fin_cases k <;> rfl
  | _ => rfl

theorem regOffset_mod_four (r : Reg) : r.offset % 4 = 0 := by
  cases r <;> simp only [Reg.offset] <;> omega

/-- R40: below 0x80 the only aligned offset without a register is the hole at 0x3C. -/
theorem regAt_isSome_of_lt : ∀ n < 32, n ≠ 15 → (regAt (4 * n)).isSome = true := by decide

theorem regAt_eq_none_iff {off : Nat} (hal : off % 4 = 0) : regAt off = none ↔ off = 0x3C ∨ 0x80 ≤ off := by
  refine ⟨fun hnone => ?_, regAt_reserved⟩
  by_contra hreg
  have hsome := regAt_isSome_of_lt (off / 4) (by omega) (by omega)
  rw [show 4 * (off / 4) = off by omega, hnone] at hsome
  contradiction

/-- Settles O2: the table is `Reg.offset`, and `regAt` is its inverse. -/
theorem registerMapIsOneToOne : Obligations.RegisterMapIsOneToOne := by
  refine ⟨?_, fun r => ⟨regAt_offset r, regOffset_mod_four r, regOffset_lt r⟩, fun _ _ => eq_offset_of_regAt,
    fun _ _ => regAt_eq_none_iff⟩
  exact ⟨rfl, rfl, rfl, rfl, rfl, rfl, rfl, rfl, rfl, rfl, rfl, rfl, rfl, rfl, rfl,
    fun _ => rfl, fun _ => rfl, fun _ => rfl⟩

/-- Settles O3: each word is the encoding of its instruction. -/
theorem writtenOutWordsDecode : Obligations.WrittenOutWordsDecode := by
  have hdecode : ∀ i : Instr, decode (encode i) = .ok i := fun i => (encodedInWindow i).2.2
  exact ⟨hdecode .nop, hdecode .abort, hdecode .encBegin, hdecode .encFinal, hdecode .decBegin, hdecode .rxEos,
    hdecode (.din 0x41 true 0x7FFFFF), hdecode .dout⟩

theorem busOp_illegalCommand {v : Word} (hv : commandOf v = none) (s : State) :
    busOp (.write 0x10 v) s = .next (illegalCommand s) := by
  have hdecode : decode (.write 0x10 v) = .error (.illegalCommand v) := by
    simp only [decode, show regAt 0x10 = some .cmd from rfl, hv]
  simp only [busOp, hdecode]

/-- Settles O4: `commandOf` is defined on the six opcodes only, and an illegal word is error entry outside ERROR. -/
theorem illegalCommandWords : Obligations.IllegalCommandWords := by
  refine ⟨commandOf_eq_none_iff, fun s v hv => ?_⟩
  rw [busOp_illegalCommand hv]
  obtain ⟨hseq, hs⟩ | ⟨hseq, hs⟩ := illegalCommand_cases s <;> rw [hs]
  · exact ⟨fun h => absurd hseq h, fun _ => rfl⟩
  · exact ⟨fun _ => ⟨_, rfl, raise_entry .illegalOpcode s⟩, fun h => absurd h hseq⟩

end Sys2Proof.Proofs

/-! PROOFS. The step, said once: every instruction gives a next state (`effect`), every bus operation does one of five
things (`BusEffect`), and a step is one bus operation, the engine's step or a reset (spec/00_scope.md R9,
spec/20_memory.md R70 to R73, spec/70_reset_and_hazards.md R340). -/

namespace Sys2Proof.Proofs

open Sys2Proof Sys2Proof.Machine Sys2Proof.Laws Sys2Proof.Safety

/-- The next state each instruction gives, `exec` without its outcome. -/
def effect (i : Instr) (s : State) : State :=
  match i with
  | .nop => s
  | .abort => abortTransfer s
  | .encBegin => command .encBegin encBegin s
  | .encFinal => command .encFinal encFinal s
  | .decBegin => command .decBegin decBegin s
  | .rxEos => command .rxEos rxEos s
  | .din data last _ => dinWrite data last s
  | .dout => respond (doutWord s.work.outq) (popOut s)

/-- No instruction faults or is refused. -/
theorem exec_eq_effect (i : Instr) (s : State) : exec i s = .next (effect i s) := by
  cases i with
  | nop => exact nopDoesNothing s
  | _ => rfl

/-- R72: what a bus operation can do: an instruction at its encoding; an illegal CMD word; a read of anything but DOUT;
a write of a register; a write that nothing takes. -/
inductive BusEffect (s : State) : BusOp → State → Prop where
  | instr (i : Instr) : BusEffect s (encode i) (effect i s)
  | illegal (v : Word) (hv : commandOf v = none) : BusEffect s (.write 0x10 v) (illegalCommand s)
  | read (off : Nat) (hoff : off ≠ 0x38) (w : Word) : BusEffect s (.read off) (respond w s)
  | write (r : Reg) (v : Word) (hcmd : r ≠ .cmd) (hdin : r ≠ .din) :
      BusEffect s (.write r.offset v) (writeReg r v s)
  | ignored (off : Nat) (v : Word) (hoff : regAt off = none) : BusEffect s (.write off v) s

/-- R100: where an operation is not an instruction, what the decoder says of it. -/
theorem decode_read_error {off : Nat} {e : DecodeError} (h : decode (.read off) = .error e) :
    off ≠ 0x38 ∧ (e = .reservedRead ∨ ∃ r, e = .registerRead r) := by
  simp only [decode] at h
  split at h <;> cases h
  · rename_i hreg
    refine ⟨?_, .inl rfl⟩
    rintro rfl
    cases hreg
  · rename_i r hr hreg
    refine ⟨?_, .inr ⟨r, rfl⟩⟩
    rintro rfl
    cases hreg
    exact hr rfl

theorem decode_write_error {off : Nat} {v : Word} {e : DecodeError} (h : decode (.write off v) = .error e) :
    (regAt off = none ∧ e = .reservedWrite) ∨ (off = 0x10 ∧ commandOf v = none ∧ e = .illegalCommand v) ∨
    (∃ r, r ≠ .cmd ∧ r ≠ .din ∧ off = r.offset ∧ e = .registerWrite r v) := by
  simp only [decode] at h
  split at h
  · cases h
    exact .inl ⟨‹_›, rfl⟩
  · rename_i hreg
    split at h <;> cases h
    exact .inr (.inl ⟨eq_offset_of_regAt hreg, ‹_›, rfl⟩)
  · contradiction
  · rename_i r hcmd hdin hreg
    cases h
    exact .inr (.inr ⟨r, hcmd, hdin, eq_offset_of_regAt hreg, rfl⟩)

/-- R72, R73: a bus operation always gives a next state, and does one of the five things. -/
theorem busOp_effect (op : BusOp) (s : State) : ∃ t, busOp op s = .next t ∧ BusEffect s op t := by
  cases hdecode : decode op with
  | ok i =>
    refine ⟨effect i s, ?_, eq_encode_of_decode hdecode ▸ .instr i⟩
    simp only [busOp, hdecode, exec_eq_effect]
  | error e =>
    cases op with
    | read off =>
      obtain ⟨hoff, rfl | ⟨r, rfl⟩⟩ := decode_read_error hdecode
      · exact ⟨respond 0 s, by simp only [busOp, hdecode], .read off hoff 0⟩
      · exact ⟨respond (readReg r s) s, by simp only [busOp, hdecode], .read off hoff _⟩
    | write off v =>
      obtain ⟨hnone, rfl⟩ | ⟨rfl, hv, rfl⟩ | ⟨r, hcmd, hdin, rfl, rfl⟩ := decode_write_error hdecode
      · exact ⟨s, by simp only [busOp, hdecode], .ignored off v hnone⟩
      · exact ⟨illegalCommand s, by simp only [busOp, hdecode], .illegal v hv⟩
      · exact ⟨writeReg r v s, by simp only [busOp, hdecode], .write r v hcmd hdin⟩

theorem busEffect_of_busOp {op : BusOp} {s t : State} (h : busOp op s = .next t) : BusEffect s op t := by
  obtain ⟨t', ht', heffect⟩ := busOp_effect op s
  rw [h] at ht'
  cases ht'
  exact heffect

/-- R70 to R73, R340: what an event that answers a next state is, and what it does. -/
theorem takeEvent_cases {e : Event} {s t : State} (h : takeEvent e s = .next t) :
    (∃ op : BusOp, op.wf = true ∧ e = .access (op.toAccess s.params.base) ∧ BusEffect s op t) ∨
    (e = .engine ∧ t = engineStep s) ∨ (e = .reset ∧ t = platformReset s) := by
  cases e with
  | access a =>
    simp only [takeEvent, hostAccess] at h
    split at h
    · rename_i op haddr
      obtain ⟨hwf, rfl⟩ := addressDecode_ok haddr
      exact .inl ⟨op, hwf, rfl, busEffect_of_busOp h⟩
    · contradiction
    · contradiction
  | engine => cases h; exact .inr (.inl ⟨rfl, rfl⟩)
  | reset => cases h; exact .inr (.inr ⟨rfl, rfl⟩)

/-- A property that no event to come bears on, and that the engine, a reset and every bus operation keep, is kept by
every step. -/
theorem step_keeps {P : State → Prop} (hqueue : ∀ s rest, P s → P { s with queue := rest })
    (hengine : ∀ s, P s → P (engineStep s)) (hreset : ∀ s, P s → P (platformReset s))
    (hbus : ∀ op s t, BusEffect s op t → P s → P t) {s t : State} (hs : P s) (hstep : step s = .next t) : P t := by
  obtain ⟨_, rfl⟩ | ⟨e, rest, _, htake⟩ := step_cases hstep
  · exact hengine s hs
  · have hs := hqueue s rest hs
    obtain ⟨op, _, _, heffect⟩ | ⟨_, rfl⟩ | ⟨_, rfl⟩ := takeEvent_cases htake
    · exact hbus op _ t heffect hs
    · exact hengine _ hs
    · exact hreset _ hs

/-- R256, R261: the engine's step, by what is pending. -/
theorem engineStep_cases (s : State) :
    (s.seq = .encProc ∧ engineStep s = encComplete s) ∨ (s.seq = .decProc ∧ engineStep s = decComplete s) ∨
    (s.seq.busy = false ∧ engineStep s = s) := by
  cases hbusy : s.seq.busy with
  | false => exact .inr (.inr ⟨rfl, engineStep_of_not_busy hbusy⟩)
  | true =>
    cases hseq : s.seq with
    | encProc => exact .inl ⟨rfl, by simp only [engineStep, hseq]⟩
    | decProc => exact .inr (.inl ⟨rfl, by simp only [engineStep, hseq]⟩)
    | _ => simp [hseq, SeqState.busy] at hbusy

/-- Settles O5: the address decoder and the word decoder are the only things between the event and `exec`. -/
theorem stepRunsTheDecodedInstruction : Obligations.StepRunsTheDecodedInstruction := by
  intro s a rest i hq hdecode _
  obtain ⟨op, haddr, hop⟩ := decodeAccess_eq_some hdecode
  simp only [step, hq, takeEvent, hostAccess, haddr, busOp, hop]

theorem busy_engineStep (s : State) : (engineStep s).seq.busy = false := by
  obtain ⟨_, h⟩ | ⟨_, h⟩ | ⟨hbusy, h⟩ := engineStep_cases s <;> rw [h]
  · rfl
  · obtain ⟨_, h⟩ | ⟨_, _, h⟩ | ⟨_, _, _, _, h⟩ | ⟨_, _, _, _, h⟩ := decComplete_cases s <;> rw [h] <;> rfl
  · exact hbusy

/-- Settles O6: the engine's step is the whole of both kinds of step, and each completion leaves the BUSY states. -/
theorem stepTakesTheEngine : Obligations.StepTakesTheEngine := by
  refine ⟨fun s rest hq => ?_, fun s hq => ?_, fun s => engineStep_of_not_busy, busy_engineStep⟩
  · simp only [step, hq, takeEvent]
  · simp only [step, hq, quiet]

/-- Settles O7: the address decoder turns the access away, and the fault says why. -/
theorem refusedAccessesFault : Obligations.RefusedAccessesFault := by
  intro s a rest addr nbits hq ha
  refine ⟨fun hge hlt hbad => ?_, fun hout => ?_⟩
  · have hin : ¬ (addr < s.params.base ∨ s.params.base + 256 ≤ addr) := by omega
    have haddr : addressDecode s.params.base a = .error .notAligned32 := by
      obtain rfl | ⟨v, rfl⟩ := ha <;> simp only [addressDecode, if_neg hin, if_pos hbad]
    simp only [step, hq, takeEvent, hostAccess, haddr]
    rfl
  · have haddr : addressDecode s.params.base a = .error .notDecoded := by
      obtain rfl | ⟨v, rfl⟩ := ha <;> simp only [addressDecode, if_pos hout]
    simp only [step, hq, takeEvent, hostAccess, haddr]

/-- R72: a well-formed access is the access of a well-formed operation. -/
theorem exists_toAccess_of_wf {base : Nat} {a : Access} (h : a.wf base = true) :
    ∃ op : BusOp, op.wf = true ∧ a = op.toAccess base := by
  cases a with
  | read addr nbits =>
    simp only [Access.wf, Bool.and_eq_true, decide_eq_true_eq, beq_iff_eq] at h
    obtain ⟨⟨⟨hge, hlt⟩, rfl⟩, hal⟩ := h
    refine ⟨.read (addr - base), by simp [BusOp.wf, hal]; omega, ?_⟩
    simp only [BusOp.toAccess, Nat.add_sub_cancel' hge]
  | write addr nbits v =>
    simp only [Access.wf, Bool.and_eq_true, decide_eq_true_eq, beq_iff_eq] at h
    obtain ⟨⟨⟨hge, hlt⟩, rfl⟩, hal⟩ := h
    refine ⟨.write (addr - base) v, by simp [BusOp.wf, hal]; omega, ?_⟩
    simp only [BusOp.toAccess, Nat.add_sub_cancel' hge]

/-- Settles O8: such an access is that of an operation, and every operation gives a next state. -/
theorem everyAlignedAccessIsTaken : Obligations.EveryAlignedAccessIsTaken := by
  refine ⟨fun s a rest hq ha => ?_, fun s rest off hlt hal => ?_⟩
  · obtain ⟨op, hwf, rfl⟩ := exists_toAccess_of_wf ha
    obtain ⟨t, ht, _⟩ := busOp_effect op { s with queue := rest }
    exact ⟨t, (step_of_toAccess hwf hq).trans ht⟩
  · exact ⟨step_read_eq_busOp hlt hal, fun v => step_write_eq_busOp hlt hal⟩

theorem readLanes_replicate_zero (n k : Nat) : readLanes (Vector.replicate n 0) k = 0 := by
  have hbyte : ∀ i : Nat, (Vector.replicate n (0 : Byte))[i]?.getD 0 = 0 := by
    intro i
    rw [Vector.getElem?_replicate]
    split <;> rfl
  simp only [readLanes, hbyte]
  decide

/-- R340: after reset every register but the three constants reads 0. -/
theorem readReg_resetWith {r : Reg} (hid : r ≠ .id) (hversion : r ≠ .version) (hcapacity : r ≠ .capacity)
    (p : Params) : readReg r (State.resetWith p) = 0 := by
  cases r with
  | id => contradiction
  | version => contradiction
  | capacity => contradiction
  | iv k => exact readLanes_replicate_zero 16 k.val
  | digest k => exact readLanes_replicate_zero 16 k.val
  | _ =>
    simp [readReg, statusWord, intStatusWord, intEnableWord, outValid, SeqState.code, SeqState.inReady,
      SeqState.busy, ErrCode.code, doutWord, ConfigRegs.zero, ResultRegs.zero, Working.empty]

/-- Settles O9: the reset event is `platformReset`, and the registers read what it wrote. -/
theorem resetSetsEveryValue : Obligations.ResetSetsEveryValue := by
  refine ⟨fun s rest hq => ?_, fun p => ⟨rfl, rfl, rfl, fun r hid hversion hcapacity => ?_, rfl⟩⟩
  · simp only [step, hq]
    rfl
  · exact readReg_resetWith hid hversion hcapacity p

end Sys2Proof.Proofs

/-! PROOFS. What each instruction and each completion does, case by case (spec/44_commands.md; spec/60_exceptions.md
R303). The cases themselves are those of Laws/Ops.lean. -/

namespace Sys2Proof.Proofs

open Sys2Proof Sys2Proof.Machine Sys2Proof.Laws Sys2Proof.Safety

/-- R303: an instruction whose effect is `raise` is error entry. -/
theorem exists_errorEntry {i : Instr} {s : State} {c : ErrCode} (h : effect i s = raise c s) :
    ∃ t, exec i s = .next t ∧ ErrorEntry c s t :=
  ⟨raise c s, (exec_eq_effect i s).trans (congrArg _ h), raise_entry c s⟩

theorem exec_of_effect {i : Instr} {s t : State} (h : effect i s = t) : exec i s = .next t :=
  (exec_eq_effect i s).trans (congrArg _ h)

/-- R242: where a command is legal, its own rule applies. -/
theorem command_of_legal {i : Instr} {body : State → State} {s : State} (herror : s.seq ≠ .error)
    (hlegal : legal i s.seq = true) : command i body s = body s := by
  simp only [command, if_neg herror, if_pos hlegal]

theorem command_of_not_legal {i : Instr} {body : State → State} {s : State} (herror : s.seq ≠ .error)
    (hlegal : legal i s.seq = false) : command i body s = raise .sequenceError s := by
  simp only [command, if_neg herror, hlegal, Bool.false_eq_true, if_false]

theorem command_of_error {i : Instr} {body : State → State} {s : State} (herror : s.seq = .error) :
    command i body s = s := by
  simp only [command, if_pos herror]

/-- R30: the legal values of KL. -/
theorem legalKeyLen_keylen (kl : BitVec 6) :
    legalKeyLen kl.toNat = true ↔ kl = 16 ∨ kl = 24 ∨ kl = 32 := by
  simp [legalKeyLen, ← BitVec.toNat_inj, or_assoc]

section
variable {s : State}

theorem effect_encBegin_of_idle (hseq : s.seq = .idle) : effect .encBegin s = encBegin s :=
  command_of_legal (by simp [hseq]) (by simp [legal, hseq])

theorem effect_decBegin_of_idle (hseq : s.seq = .idle) : effect .decBegin s = decBegin s :=
  command_of_legal (by simp [hseq]) (by simp [legal, hseq])

theorem effect_encFinal_of_encIn (hseq : s.seq = .encIn) : effect .encFinal s = encFinal s :=
  command_of_legal (by simp [hseq]) (by simp [legal, hseq])

theorem effect_rxEos_of_receiving (hseq : s.seq = .decDims ∨ s.seq = .decSum ∨ s.seq = .decCt) :
    effect .rxEos s = rxEos s := by
  obtain hseq | hseq | hseq := hseq <;> exact command_of_legal (by simp [hseq]) (by simp [legal, hseq])

/-- R257: what DEC_BEGIN can do in IDLE. -/
theorem decBegin_of_legalKeyLen (hk : legalKeyLen s.cfg.keylen.toNat = true) : decBegin s =
    { s with
      seq := .decDims
      res := ResultRegs.zero
      work := { s.work with
        wkey := keyInUse s.cfg
        w := some (keyExpansion (keyInUse s.cfg))
        tok := []
        sum := []
        buf := []
        outq := [] } } := by
  simp only [decBegin, hk, Bool.not_true, Bool.false_eq_true, if_false]

theorem decBegin_of_not_legalKeyLen (hk : legalKeyLen s.cfg.keylen.toNat = false) :
    decBegin s = raise .badKeyLength s := by
  simp only [decBegin, hk, Bool.not_false, if_true]

/-- R255: what ENC_FINAL can do in ENC_IN. -/
theorem encFinal_of_complete (hpt : s.work.pt.length = npt s) : encFinal s = { s with seq := .encProc } := by
  simp only [encFinal, hpt, ne_eq, not_true_eq_false, if_false]

theorem encFinal_of_not_complete (hpt : s.work.pt.length ≠ npt s) : encFinal s = raise .sizeMismatch s := by
  simp only [encFinal, ne_eq, hpt, not_false_eq_true, if_true]

/-- R259: what RX_EOS can do where it is legal. -/
theorem rxEos_of_decCt (hseq : s.seq = .decCt) : rxEos s = { s with seq := .decProc } := by
  simp [rxEos, hseq]

theorem rxEos_of_early (hseq : s.seq = .decDims ∨ s.seq = .decSum) : rxEos s = raise .malformedFrame s := by
  simp only [rxEos, if_pos hseq]

/-- R250, R251: the latch, with the IV and its source written out. -/
theorem encLatch_eq {iv : Vector Byte 16} (hiv : iv = if s.cfg.ivsrc then Config.draw16 s.draws else s.cfg.ivreg) :
    encLatch s =
      { s with
        seq := .encIn
        cfg := { s.cfg with ivreg := iv }
        draws := if s.cfg.ivsrc then s.draws + 1 else s.draws
        res := ResultRegs.zero
        work := { s.work with
          wkey := keyInUse s.cfg, w := some (keyExpansion (keyInUse s.cfg)), wiv := iv, ww := s.cfg.width,
          wh := s.cfg.height, pt := [], buf := [], outq := [] } } := by
  subst hiv
  cases hsrc : s.cfg.ivsrc with
  | true => simp [encLatch, selectIV, hsrc]
  | false =>
    simp only [encLatch, selectIV, hsrc, Bool.false_eq_true, if_false]
    rw [← hsrc]

theorem encBegin_of_fits (hk : legalKeyLen s.cfg.keylen.toNat = true) (hw : s.cfg.width ≠ 0) (hh : s.cfg.height ≠ 0)
    (hfits : ciphertextLen (imageBytes s.cfg.width s.cfg.height) ≤ s.params.bufBytes) : encBegin s = encLatch s := by
  rw [encBegin, hk, Bool.not_true, if_neg Bool.false_ne_true, if_neg (not_or.2 ⟨hw, hh⟩), if_neg (Nat.not_lt.2 hfits)]

theorem encBegin_of_badKey (hk : legalKeyLen s.cfg.keylen.toNat = false) : encBegin s = raise .badKeyLength s := by
  simp [encBegin, hk]

theorem encBegin_of_badDims (hk : legalKeyLen s.cfg.keylen.toNat = true)
    (hd : s.cfg.width = 0 ∨ s.cfg.height = 0) : encBegin s = raise .badDimensions s := by
  simp only [encBegin, hk, Bool.not_true, Bool.false_eq_true, if_false, if_pos hd]

theorem encBegin_of_not_fits (hk : legalKeyLen s.cfg.keylen.toNat = true) (hw : s.cfg.width ≠ 0)
    (hh : s.cfg.height ≠ 0) (hfits : s.params.bufBytes < ciphertextLen (imageBytes s.cfg.width s.cfg.height)) :
    encBegin s = raise .capacity s := by
  rw [encBegin, hk, Bool.not_true, if_neg Bool.false_ne_true, if_neg (not_or.2 ⟨hw, hh⟩), if_pos hfits]

end

/-- Settles O12: the checks pass, and the latch is written out. -/
theorem encBeginLatchesItsOperands : Obligations.EncBeginLatchesItsOperands := by
  intro s k iv hseq hk hw hh hfits hkey hiv
  subst hkey
  apply exec_of_effect
  rw [effect_encBegin_of_idle hseq, encBegin_of_fits ((legalKeyLen_keylen _).2 hk) hw hh hfits, encLatch_eq hiv]
  rfl

/-- Settles O13: the three failing checks are error entry, in their order. -/
theorem encBeginChecksInOrder : Obligations.EncBeginChecksInOrder := by
  intro s hseq
  have heffect := effect_encBegin_of_idle hseq
  refine ⟨fun hk => ?_, fun hk => ⟨fun hd => ?_, fun hw hh hfits => ?_⟩⟩
  · rw [← legalKeyLen_keylen, Bool.not_eq_true] at hk
    exact exists_errorEntry (heffect.trans (encBegin_of_badKey hk))
  · exact exists_errorEntry (heffect.trans (encBegin_of_badDims ((legalKeyLen_keylen _).2 hk) hd))
  · exact exists_errorEntry (heffect.trans (encBegin_of_not_fits ((legalKeyLen_keylen _).2 hk) hw hh hfits))

/-- Settles O14: 3·WW·WH is `npt`. -/
theorem encFinalChecksTheLength : Obligations.EncFinalChecksTheLength := by
  intro s hseq
  have heffect := effect_encFinal_of_encIn hseq
  exact ⟨fun hpt => exec_of_effect (heffect.trans (encFinal_of_complete hpt)),
    fun hpt => exists_errorEntry (heffect.trans (encFinal_of_not_complete hpt))⟩

/-- Settles O15: the key length decides. -/
theorem decBeginLatchesTheKey : Obligations.DecBeginLatchesTheKey := by
  intro s k hseq hkey
  subst hkey
  have heffect := effect_decBegin_of_idle hseq
  refine ⟨fun hk => exec_of_effect ?_, fun hk => ?_⟩
  · rw [heffect, decBegin_of_legalKeyLen ((legalKeyLen_keylen _).2 hk)]
    rfl
  · rw [← legalKeyLen_keylen, Bool.not_eq_true] at hk
    exact exists_errorEntry (heffect.trans (decBegin_of_not_legalKeyLen hk))

/-- Settles O16: RX_EOS is legal in the three states, and too early in two of them. -/
theorem rxEosEndsTheStream : Obligations.RxEosEndsTheStream := by
  refine fun s => ⟨fun hct => ?_, fun hearly => ?_⟩
  · exact exec_of_effect ((effect_rxEos_of_receiving (.inr (.inr hct))).trans (rxEos_of_decCt hct))
  · have heffect := effect_rxEos_of_receiving (s := s) (hearly.imp_right .inl)
    exact exists_errorEntry (heffect.trans (rxEos_of_early hearly))

/-- Settles O17: outside its states a command is not legal. -/
theorem commandsOutOfSequence : Obligations.CommandsOutOfSequence := by
  refine fun s herror => ⟨fun hidle => ⟨?_, ?_⟩, fun hencIn => ?_, fun hdims hsum hct => ?_⟩
  · exact exists_errorEntry (i := .encBegin) (command_of_not_legal herror (by simp [legal, hidle]))
  · exact exists_errorEntry (i := .decBegin) (command_of_not_legal herror (by simp [legal, hidle]))
  · exact exists_errorEntry (i := .encFinal) (command_of_not_legal herror (by simp [legal, hencIn]))
  · exact exists_errorEntry (i := .rxEos) (command_of_not_legal herror (by simp [legal, hdims, hsum, hct]))

/-! The data ports, by state. -/

section
variable {s : State} (b : Byte) (l : Bool)

theorem dinWrite_of_encIn (hseq : s.seq = .encIn) : dinWrite b l s = dinPlaintext b s := by
  simp only [dinWrite, hseq]

theorem dinWrite_of_decDims (hseq : s.seq = .decDims) : dinWrite b l s = dinToken b l s := by
  simp only [dinWrite, hseq]

theorem dinWrite_of_decSum (hseq : s.seq = .decSum) : dinWrite b l s = dinChecksum b s := by
  simp only [dinWrite, hseq]

theorem dinWrite_of_decCt (hseq : s.seq = .decCt) : dinWrite b l s = dinCiphertext b s := by
  simp only [dinWrite, hseq]

theorem dinWrite_of_error (hseq : s.seq = .error) : dinWrite b l s = s := by
  simp only [dinWrite, hseq]

theorem dinWrite_out_of_sequence
    (hseq : s.seq = .idle ∨ s.seq = .encProc ∨ s.seq = .encOut ∨ s.seq = .decProc ∨ s.seq = .decOut) :
    dinWrite b l s = raise .sequenceError s := by
  obtain hseq | hseq | hseq | hseq | hseq := hseq <;> simp only [dinWrite, hseq]

theorem dinPlaintext_of_full (hpt : s.work.pt.length = npt s) : dinPlaintext b s = raise .sizeMismatch s := by
  simp only [dinPlaintext, if_pos hpt]

theorem dinPlaintext_of_not_full (hpt : s.work.pt.length ≠ npt s) : dinPlaintext b s =
    { s with
      work := { s.work with pt := s.work.pt ++ [b] }
      res := { s.res with ptlen := BitVec.ofNat 32 (s.work.pt.length + 1) } } := by
  simp [dinPlaintext, hpt]

theorem dinToken_of_full (htok : s.work.tok.length = 11) : dinToken b l s = raise .malformedFrame s := by
  simp only [dinToken, if_pos htok]

theorem dinToken_gather (htok : s.work.tok.length ≠ 11) :
    dinToken b false s = { s with work := { s.work with tok := s.work.tok ++ [b] } } := by
  simp [dinToken, htok]

theorem dinToken_accept {w h : Nat} (htok : s.work.tok.length ≠ 11)
    (hparse : parseToken (s.work.tok ++ [b]) = some (w, h)) : dinToken b true s = acceptToken w h s := by
  simp [dinToken, htok, hparse]

theorem dinToken_reject (htok : s.work.tok.length ≠ 11) (hparse : parseToken (s.work.tok ++ [b]) = none) :
    dinToken b true s = raise .malformedFrame s := by
  simp [dinToken, htok, hparse]

theorem dinChecksum_of_last (hsum : s.work.sum.length = 31) : dinChecksum b s =
    { s with work := { s.work with sum := s.work.sum ++ [b] }, seq := .decCt } := by
  simp [dinChecksum, hsum]

theorem dinChecksum_of_not_last (hsum : s.work.sum.length ≠ 31) : dinChecksum b s =
    { s with work := { s.work with sum := s.work.sum ++ [b] } } := by
  simp [dinChecksum, hsum]

theorem dinCiphertext_of_full (hbuf : s.work.buf.length = s.params.bufBytes) :
    dinCiphertext b s = raise .capacity s := by
  simp only [dinCiphertext, if_pos hbuf]

theorem dinCiphertext_of_not_full (hbuf : s.work.buf.length ≠ s.params.bufBytes) : dinCiphertext b s =
    { s with
      work := { s.work with buf := s.work.buf ++ [b] }
      res := { s.res with ctlen := BitVec.ofNat 32 (s.work.buf.length + 1) } } := by
  simp [dinCiphertext, hbuf]

end

/-- Settles O19: `npt` divides the two cases. -/
theorem dinTakesPlaintext : Obligations.DinTakesPlaintext := by
  intro s b l x hseq
  have heffect : effect (.din b l x) s = dinPlaintext b s := dinWrite_of_encIn b l hseq
  exact ⟨fun hpt => exec_of_effect (heffect.trans (dinPlaintext_of_not_full b (Nat.ne_of_lt hpt))),
    fun hpt => exists_errorEntry (heffect.trans (dinPlaintext_of_full b hpt))⟩

/-- Settles O20: a twelfth byte, a byte to gather, and the two ends of a token. -/
theorem dinTakesTheToken : Obligations.DinTakesTheToken := by
  intro s b x hseq
  have heffect : ∀ l, effect (.din b l x) s = dinToken b l s := fun l => dinWrite_of_decDims b l hseq
  refine ⟨fun htok l => ?_, fun htok => ⟨?_, fun hparse => ?_, fun w h hparse => ?_⟩⟩
  · exact exists_errorEntry ((heffect l).trans (dinToken_of_full b l htok))
  · exact exec_of_effect ((heffect false).trans (dinToken_gather b htok))
  · exact exists_errorEntry ((heffect true).trans (dinToken_reject b htok hparse))
  · exact exec_of_effect ((heffect true).trans (dinToken_accept b htok hparse))

/-- Settles O21: the 32nd byte is the one that finds 31. -/
theorem dinTakesTheChecksum : Obligations.DinTakesTheChecksum := by
  intro s b l x hseq
  have heffect : effect (.din b l x) s = dinChecksum b s := dinWrite_of_decSum b l hseq
  exact ⟨fun hsum => exec_of_effect (heffect.trans (dinChecksum_of_not_last b hsum)),
    fun hsum => exec_of_effect (heffect.trans (dinChecksum_of_last b hsum))⟩

/-- Settles O22: the buffer is full or it is not. -/
theorem dinTakesCiphertext : Obligations.DinTakesCiphertext := by
  intro s b l x hseq
  have heffect : effect (.din b l x) s = dinCiphertext b s := dinWrite_of_decCt b l hseq
  exact ⟨fun hbuf => exec_of_effect (heffect.trans (dinCiphertext_of_not_full b hbuf)),
    fun hbuf => exists_errorEntry (heffect.trans (dinCiphertext_of_full b hbuf))⟩

/-- Settles O23: the five states share one arm. -/
theorem dinOutOfSequence : Obligations.DinOutOfSequence :=
  fun _ b l _ hseq => exists_errorEntry (dinWrite_out_of_sequence b l hseq)

/-- Settles O24: the ignored bits never reach `dinWrite`, and only `dinToken` is given LAST. -/
theorem dinIgnoredBits : Obligations.DinIgnoredBits := by
  refine fun s b l m x y => ⟨rfl, fun hdims => congrArg Host.Outcome.next ?_⟩
  unfold dinWrite
  cases hseq : s.seq with
  | decDims => exact absurd hseq hdims
  | _ => rfl

section
variable {s : State}

theorem popOut_of_empty (hq : s.work.outq = []) : popOut s = s := by
  simp only [popOut, hq]

theorem popOut_of_not_last {it : OutItem} {rest : List OutItem} (hq : s.work.outq = it :: rest)
    (hlast : it.last = false) : popOut s = { s with work := { s.work with outq := rest } } := by
  simp [popOut, hq, hlast]

theorem popOut_of_last {it : OutItem} {rest : List OutItem} (hq : s.work.outq = it :: rest)
    (hlast : it.last = true) : popOut s = endTransfer { s with work := { s.work with outq := rest } } := by
  simp [popOut, hq, hlast]

theorem exec_dout_of_empty (hq : s.work.outq = []) : exec .dout s = .next { s with rdata := 0 } := by
  apply exec_of_effect
  rw [effect, popOut_of_empty hq, hq]
  rfl

end

/-- Settles O25: an empty queue, an item without the end mark, and the item with it. -/
theorem doutPopsOneItem : Obligations.DoutPopsOneItem := by
  refine fun s => ⟨exec_dout_of_empty, fun it rest hq => ⟨fun hlast => ?_, fun hlast => ?_⟩⟩
  · apply exec_of_effect
    rw [effect, popOut_of_not_last hq hlast, hq]
    rfl
  · apply exec_of_effect
    rw [effect, popOut_of_last hq hlast, hq]
    rfl

/-- R105: the bits of a DOUT word. -/
theorem toWord_getLsbD (it : OutItem) (i : Nat) :
    it.toWord.getLsbD i =
      if i < 8 then it.byte.getLsbD i
      else if i - 8 < 1 then (1 : BitVec 1).getLsbD (i - 8)
      else if i - 8 - 1 < 1 then (BitVec.ofBool it.segEnd).getLsbD (i - 8 - 1)
      else if i - 8 - 1 - 1 < 1 then (BitVec.ofBool it.last).getLsbD (i - 8 - 1 - 1)
      else false := by
  simp only [OutItem.toWord, BitVec.getLsbD_append]
  simp

/-- R105: a DOUT word as a number. -/
theorem toWord_toNat (it : OutItem) :
    it.toWord.toNat = it.byte.toNat + 2 ^ 8 + it.segEnd.toNat * 2 ^ 9 + it.last.toNat * 2 ^ 10 := by
  have happend : it.toWord.toNat =
      ((0 : BitVec 21) ++ BitVec.ofBool it.last ++ BitVec.ofBool it.segEnd ++ (1 : BitVec 1)).toNat * 2 ^ 8 +
        it.byte.toNat := by
    rw [OutItem.toWord, BitVec.toNat_append, ← Nat.shiftLeft_add_eq_or_of_lt it.byte.isLt, Nat.shiftLeft_eq]
  rw [happend]
  cases it.segEnd <;> cases it.last <;> simp <;> omega

/-- Settles O26: the word is the concatenation of its fields. -/
theorem doutWordFields : Obligations.DoutWordFields := by
  intro it
  refine ⟨?_, ?_, ?_, ?_, ?_, toWord_toNat it⟩
  · apply BitVec.eq_of_getLsbD_eq
    intro i hi
    simp [toWord_getLsbD, hi]
  · rw [toWord_getLsbD]
    simp
  · rw [toWord_getLsbD]
    simp
  · rw [toWord_getLsbD]
    simp
  · apply BitVec.eq_of_getLsbD_eq
    intro i hi
    rw [BitVec.getLsbD_extractLsb', toWord_getLsbD, if_neg (by omega), if_neg (by omega), if_neg (by omega),
      if_neg (by omega)]
    simp

/-- Settles O27: the completion is `encComplete`, and `c` is its ciphertext. -/
theorem engineCompletesEncryption : Obligations.EngineCompletesEncryption := by
  intro s c hseq hc
  subst hc
  simp only [engineStep, hseq]
  rfl

/-- Settles O28: by the invariant on the key, the schedule held is that of WKEY. -/
theorem completionUsesTheLatchedSchedule : Obligations.CompletionUsesTheLatchedSchedule := by
  intro s hinv hseq
  obtain ⟨_, hw⟩ := hinv.key (by simp [hseq]) (by simp [hseq])
  refine ⟨_, hw, ?_⟩
  simp only [engineStep, hseq]
  rfl

/-- R202: the check compares SUM with the checksum text. -/
theorem verify_iff (c s : List Byte) : verify c s = true ↔ s = hexText (md5 c).toList := by
  simp [verify, checksumText]

/-- Settles O29: the four outcomes of the completion, told apart by its three checks. -/
theorem engineCompletesDecryption : Obligations.EngineCompletesDecryption := by
  intro s hseq
  have hengine : engineStep s = decComplete s := by simp only [engineStep, hseq]
  rw [hengine, decComplete]
  refine ⟨fun hsum => ?_, fun hsum => ?_⟩
  · rw [if_neg (mt (verify_iff _ _).1 hsum)]
    exact raise_entry _ _
  · rw [if_pos ((verify_iff _ _).2 hsum)]
    refine ⟨fun hdec => ?_, fun r hdec => ?_⟩ <;> rw [hdec]
    · exact raise_entry _ _
    · refine ⟨fun hlen => ?_, fun hlen => ?_⟩
      · have hrx : r.length ≠ rxBytes (storeDigest s) := hlen
        simp only [decAccept, if_pos hrx]
        exact raise_entry _ _
      · have hrx : ¬ r.length ≠ rxBytes (storeDigest s) := not_not.2 hlen
        simp only [decAccept, if_neg hrx]
        rfl

end Sys2Proof.Proofs

/-! PROOFS. Padding and the lengths of ciphertexts (spec/41_cbc_pkcs7.md R170, R171, R175). -/

namespace Sys2Proof.Proofs

open Sys2Proof Sys2Proof.Machine Sys2Proof.Laws

/-- R170: a padded string ends in n copies of n and is a whole number of blocks. -/
theorem pad_eq_append_replicate (p : List Byte) :
    ∃ n, 1 ≤ n ∧ n ≤ 16 ∧ (p.length + n) % 16 = 0 ∧ pad p = p ++ List.replicate n (BitVec.ofNat 8 n) :=
  ⟨16 - p.length % 16, by omega, by omega, by omega, rfl⟩

theorem pad_length (p : List Byte) : (pad p).length = 16 * (p.length / 16 + 1) := by
  simp only [pad, List.length_append, List.length_replicate]
  omega

/-- R171: what an accepted string is made of. -/
theorem eq_append_replicate_of_unpad {q p : List Byte} (h : unpad q = some p) :
    q.length % 16 = 0 ∧ ∃ n, 1 ≤ n ∧ n ≤ 16 ∧ q = p ++ List.replicate n (BitVec.ofNat 8 n) := by
  unfold unpad at h
  split at h
  · contradiction
  · rename_i hlen
    obtain ⟨hne, hblocks⟩ := not_or.1 hlen
    dsimp only at h
    generalize (q.getD (q.length - 1) 0).toNat = n at h
    split at h
    · contradiction
    · rename_i hn
      split at h <;> cases h
      rename_i hall
      refine ⟨by omega, n, by omega, by omega, ?_⟩
      have htail : q.drop (q.length - n) = List.replicate n (BitVec.ofNat 8 n) := by
        refine List.eq_replicate_iff.2 ⟨by rw [List.length_drop]; omega, fun b hb => ?_⟩
        have hbn : b.toNat = n := by simpa using List.all_eq_true.1 hall b hb
        rw [← hbn, BitVec.ofNat_toNat, BitVec.setWidth_eq]
      rw [← htail, List.take_append_drop]

/-- R171: a padded string is accepted, and its padding comes off. -/
theorem unpad_append_replicate {p : List Byte} {n : Nat} (hpos : 1 ≤ n) (hle : n ≤ 16)
    (hblocks : (p.length + n) % 16 = 0) : unpad (p ++ List.replicate n (BitVec.ofNat 8 n)) = some p := by
  have hbyte : (BitVec.ofNat 8 n).toNat = n := by
    rw [BitVec.toNat_ofNat]
    omega
  have hlen : (p ++ List.replicate n (BitVec.ofNat 8 n)).length = p.length + n := by simp
  have hlast : (p ++ List.replicate n (BitVec.ofNat 8 n)).getD (p.length + n - 1) 0 = BitVec.ofNat 8 n := by
    rw [List.getD_eq_getElem?_getD, List.getElem?_append_right (by omega), List.getElem?_replicate,
      if_pos (by omega), Option.getD_some]
  have hcond : ¬ (p.length + n = 0 ∨ (p.length + n) % 16 ≠ 0) := by omega
  have hrange : ¬ (n = 0 ∨ 16 < n) := by omega
  simp only [unpad, hlen, hlast, hbyte, if_neg hcond, if_neg hrange, Nat.add_sub_cancel, List.drop_left,
    List.take_left]
  simp [hbyte]

/-- Settles O51: both directions of R171. -/
theorem unpadAcceptsExactlyPadding : Obligations.UnpadAcceptsExactlyPadding := by
  refine fun q p => ⟨eq_append_replicate_of_unpad, ?_⟩
  rintro ⟨hblocks, n, hpos, hle, rfl⟩
  exact unpad_append_replicate hpos hle (by simpa using hblocks)

/-- Settles O50: padding is of the form that is accepted. -/
theorem unpadUndoesPad : Obligations.UnpadUndoesPad := by
  intro p
  obtain ⟨n, hpos, hle, hblocks, hpad⟩ := pad_eq_append_replicate p
  rw [hpad, unpad_append_replicate hpos hle hblocks]

/-- R175, R250: the length of a ciphertext. -/
theorem encrypt_length (k p : List Byte) {iv : List Byte} (hiv : iv.length = 16) :
    (encrypt k iv p).length = ciphertextLen p.length := by
  simp [encrypt, ciphertextLen, hiv, cbcEnc_length, pad_length]

/-- Settles O53: the padding's shape, and the lengths of the two parts of a ciphertext. -/
theorem paddingAndCiphertextLengths : Obligations.PaddingAndCiphertextLengths := by
  refine ⟨fun p => ⟨pad_length p, pad_eq_append_replicate p⟩, fun k iv p hiv => ⟨encrypt_length k p hiv, ?_⟩⟩
  exact List.take_left' hiv

end Sys2Proof.Proofs

/-! PROOFS. The invariants of the sequencer (spec/10_state.md R59 and R49 to R57): each thing a step can do keeps them.
Where STATE stays, only the fields the operation touches are proved again; where it moves, all are. -/

namespace Sys2Proof.Proofs

open Sys2Proof Sys2Proof.Machine Sys2Proof.Laws Sys2Proof.Safety

section
variable {s : State}

/-- No invariant speaks of anything but IVSRC in the configuration, or of INT_STATUS and the model's own fields. -/
theorem inv_of_outside (h : SequencerInv s) {c : ConfigRegs} (hc : c.ivsrc = true → s.params.hasTrng = true)
    (d e : Bool) (q : List Event) (r : Word) (n : Nat) :
    SequencerInv { s with cfg := c, intDone := d, intErr := e, queue := q, rdata := r, draws := n } :=
  { h with listed := { h.listed with }, ivsrc := hc }

theorem inv_setQueue (h : SequencerInv s) (rest : List Event) : SequencerInv { s with queue := rest } :=
  inv_of_outside h h.ivsrc s.intDone s.intErr rest s.rdata s.draws

theorem inv_respond (h : SequencerInv s) (w : Word) : SequencerInv (respond w s) :=
  inv_of_outside h h.ivsrc s.intDone s.intErr s.queue w s.draws

/-- R25, R267: a register write keeps IVSRC at 0 where there is no random source, and all else apart. -/
theorem inv_writeReg (h : SequencerInv s) (r : Reg) (v : Word) : SequencerInv (writeReg r v s) := by
  have hcfg : ∀ c : ConfigRegs, (c.ivsrc = true → s.params.hasTrng = true) → SequencerInv { s with cfg := c } :=
    fun c hc => inv_of_outside h hc s.intDone s.intErr s.queue s.rdata s.draws
  cases r with
  | ctrl => exact hcfg _ fun hsrc => (Bool.and_eq_true_iff.1 hsrc).1
  | intStatus => exact inv_of_outside h h.ivsrc _ _ s.queue s.rdata s.draws
  | intEnable => exact hcfg _ h.ivsrc
  | keylen => exact hcfg _ h.ivsrc
  | dim => exact hcfg _ h.ivsrc
  | key k => exact hcfg _ h.ivsrc
  | iv k => exact hcfg _ h.ivsrc
  | _ => exact h

/-- Outside a transfer the working state is empty. -/
theorem work_eq_empty (h : SequencerInv s) (hseq : s.seq = .idle ∨ s.seq = .error) : s.work = Working.empty := by
  have hcases : ∀ q : SeqState, q = .idle ∨ q = .error → q ≠ .encIn ∧ q ≠ .encProc ∧ q ≠ .encOut ∧ q ≠ .decDims ∧
      q ≠ .decSum ∧ q ≠ .decCt ∧ q ≠ .decProc ∧ q ≠ .decOut ∧ encrypting q = false := by
    rintro q (rfl | rfl) <;> decide
  obtain ⟨hencIn, hencProc, hencOut, hdims, hsum, hct, hproc, hout, henc⟩ := hcases s.seq hseq
  obtain ⟨hwkey, hw⟩ := h.noKey hseq
  obtain ⟨hww, hwh⟩ := h.noDims henc
  have hpt := h.listed.pt hencIn hencProc
  have htok := h.listed.tok hdims
  have hsum := h.listed.sum hsum hct hproc
  have hbuf := h.listed.buf hct hproc hencOut
  have houtq := h.listed.outq hencOut hout
  have hiv := h.noIv henc
  cases hwork : s.work
  simp_all [Working.empty]

/-- A state in IDLE or ERROR whose working state is empty has the invariants. -/
theorem inv_of_empty (hparams : s.params.wf = true) (hsrc : s.cfg.ivsrc = true → s.params.hasTrng = true)
    (hwork : s.work = Working.empty)
    (hseq : s.seq = .idle ∧ s.errc = .noError ∨ s.seq = .error ∧ s.errc ≠ .noError) : SequencerInv s := by
  obtain ⟨hseq, herrc⟩ | ⟨hseq, herrc⟩ := hseq
  all_goals
    constructor
    case params => exact hparams
    case ivsrc => exact hsrc
    case listed => constructor <;> simp [hseq, herrc, hwork, Working.empty]
    all_goals simp [hseq, herrc, hwork, Working.empty, encrypting, tokenAccepted, endsMarked]

theorem inv_raise (hparams : s.params.wf = true) (hsrc : s.cfg.ivsrc = true → s.params.hasTrng = true)
    {c : ErrCode} (hc : c ≠ .noError) : SequencerInv (raise c s) :=
  inv_of_empty hparams hsrc rfl (.inr ⟨rfl, hc⟩)

theorem inv_abortTransfer (h : SequencerInv s) : SequencerInv (abortTransfer s) :=
  inv_of_empty h.params h.ivsrc rfl (.inl ⟨rfl, rfl⟩)

theorem inv_platformReset (h : SequencerInv s) : SequencerInv (platformReset s) :=
  inv_of_empty h.params (fun hsrc => absurd hsrc Bool.false_ne_true) rfl (.inl ⟨rfl, rfl⟩)

/-- R8: no buffer length needs more than 32 bits. -/
theorem bufBytes_lt (h : SequencerInv s) : s.params.bufBytes < 2 ^ 32 := by
  have hp := h.params
  simp only [Params.wf, Bool.and_eq_true, decide_eq_true_eq] at hp
  omega

theorem toNat_ofNat_of_le {n : Nat} (h : SequencerInv s) (hn : n ≤ s.params.bufBytes) :
    (BitVec.ofNat 32 n).toNat = n := by
  have := bufBytes_lt h
  rw [BitVec.toNat_ofNat, Nat.mod_eq_of_lt (by omega)]

/-- R250: a plaintext is shorter than its ciphertext. -/
theorem lt_ciphertextLen (n : Nat) : n < ciphertextLen n := by
  unfold ciphertextLen
  omega

theorem npt_lt_bufBytes (h : SequencerInv s) (hseq : encrypting s.seq = true) : npt s < s.params.bufBytes := by
  obtain ⟨_, _, hfits⟩ := h.dims hseq
  exact Nat.lt_of_lt_of_le (lt_ciphertextLen _) hfits

theorem keyInUse_length (c : ConfigRegs) (hk : legalKeyLen c.keylen.toNat = true) :
    (keyInUse c).length = c.keylen.toNat := by
  have hle : c.keylen.toNat ≤ 32 := by
    obtain hk | hk | hk := (legalKeyLen_keylen _).1 hk <;> simp [hk]
  simp [keyInUse, hle]

/-- R250: ENC_BEGIN starts an encryption. -/
theorem inv_encLatch (h : SequencerInv s) (hseq : s.seq = .idle) (hk : legalKeyLen s.cfg.keylen.toNat = true)
    (hw : s.cfg.width ≠ 0) (hh : s.cfg.height ≠ 0)
    (hfits : ciphertextLen (imageBytes s.cfg.width s.cfg.height) ≤ s.params.bufBytes) :
    SequencerInv (encLatch s) := by
  have hwork := work_eq_empty h (.inl hseq)
  have herrc : s.errc = .noError := h.listed.errc (by simp [hseq])
  have hlen := keyInUse_length s.cfg hk
  constructor
  case params => simpa using h.params
  case ivsrc => simpa using h.ivsrc
  case listed => constructor <;> simp [herrc, hwork, Working.empty]
  case key => simp [hlen, hk]
  case dims => exact fun _ => ⟨by simpa using hw, by simpa using hh, by simpa [npt] using hfits⟩
  all_goals simp [hwork, Working.empty, encrypting, tokenAccepted, ResultRegs.zero, endsMarked]

theorem inv_encBegin (h : SequencerInv s) (hseq : s.seq = .idle) : SequencerInv (encBegin s) := by
  obtain ⟨_, heq⟩ | ⟨_, _, heq⟩ | ⟨_, _, _, _, heq⟩ | ⟨hk, hw, hh, hfits, heq⟩ := encBegin_cases s <;> rw [heq]
  · exact inv_raise h.params h.ivsrc (by decide)
  · exact inv_raise h.params h.ivsrc (by decide)
  · exact inv_raise h.params h.ivsrc (by decide)
  · exact inv_encLatch h hseq hk hw hh hfits

/-- R257: DEC_BEGIN starts a decryption. -/
theorem inv_decBegin (h : SequencerInv s) (hseq : s.seq = .idle) : SequencerInv (decBegin s) := by
  cases hk : legalKeyLen s.cfg.keylen.toNat
  · rw [decBegin_of_not_legalKeyLen hk]
    exact inv_raise h.params h.ivsrc (by decide)
  · rw [decBegin_of_legalKeyLen hk]
    have hwork := work_eq_empty h (.inl hseq)
    have herrc : s.errc = .noError := h.listed.errc (by simp [hseq])
    have hlen := keyInUse_length s.cfg hk
    constructor
    case params => exact h.params
    case ivsrc => exact h.ivsrc
    case listed => constructor <;> simp [herrc, hwork, Working.empty]
    case key => simp [hlen, hk]
    all_goals simp [hwork, Working.empty, encrypting, tokenAccepted, ResultRegs.zero, endsMarked]

/-- R255: ENC_FINAL hands a complete plaintext to the engine. -/
theorem inv_encFinal (h : SequencerInv s) (hseq : s.seq = .encIn) : SequencerInv (encFinal s) := by
  by_cases hpt : s.work.pt.length = npt s
  · rw [encFinal_of_complete hpt]
    constructor
    case listed => constructor <;> simp [h.listed.errc, h.listed.tok, h.listed.sum, h.listed.buf, h.listed.outq, hseq]
    case params => exact h.params
    case ivsrc => exact h.ivsrc
    case key => exact fun _ _ => h.key (by simp [hseq]) (by simp [hseq])
    case dims => exact fun _ => h.dims (by simp [hseq, encrypting])
    case ptBound => exact h.ptBound
    case ptFull => exact fun _ => hpt
    case ptlen => exact fun _ => h.ptlen (.inl hseq)
    case tokBound => exact h.tokBound
    case bufBound => exact h.bufBound
    case ctlen => exact fun _ _ _ => h.ctlen (by simp [hseq]) (by simp [hseq]) (by simp [hseq])
    case rxZero => exact fun _ => h.rxZero (by simp [hseq, encrypting])
    case marks => exact h.marks
    all_goals simp [encrypting, tokenAccepted]
  · rw [encFinal_of_not_complete hpt]
    exact inv_raise h.params h.ivsrc (by decide)

/-- R259: RX_EOS hands the received frame to the engine. -/
theorem inv_rxEos (h : SequencerInv s) (hseq : s.seq = .decDims ∨ s.seq = .decSum ∨ s.seq = .decCt) :
    SequencerInv (rxEos s) := by
  by_cases hearly : s.seq = .decDims ∨ s.seq = .decSum
  · rw [rxEos_of_early hearly]
    exact inv_raise h.params h.ivsrc (by decide)
  · have hct : s.seq = .decCt := by tauto
    rw [rxEos_of_decCt hct]
    constructor
    case listed => constructor <;> simp [h.listed.errc, h.listed.pt, h.listed.tok, h.listed.sumFull, h.listed.outq, hct]
    case params => exact h.params
    case ivsrc => exact h.ivsrc
    case key => exact fun _ _ => h.key (by simp [hct]) (by simp [hct])
    case noIv => exact fun _ => h.noIv (by simp [hct, encrypting])
    case noDims => exact fun _ => h.noDims (by simp [hct, encrypting])
    case ptBound => exact h.ptBound
    case ptlenZero => exact fun _ => h.ptlenZero (by simp [hct])
    case tokBound => exact h.tokBound
    case bufBound => exact h.bufBound
    case ctlen => exact fun _ _ _ => h.ctlen (by simp [hct]) (by simp [hct]) (by simp [hct])
    case rxDims => exact fun _ => h.rxDims (by simp [hct, tokenAccepted])
    case marks => exact h.marks
    all_goals simp [encrypting]

/-- R264 in ENC_IN. -/
theorem inv_dinPlaintext (h : SequencerInv s) (hseq : s.seq = .encIn) (b : Byte) : SequencerInv (dinPlaintext b s) := by
  by_cases hpt : s.work.pt.length = npt s
  · rw [dinPlaintext_of_full b hpt]
    exact inv_raise h.params h.ivsrc (by decide)
  · rw [dinPlaintext_of_not_full b hpt]
    have hbound : s.work.pt.length + 1 ≤ npt s := Nat.lt_of_le_of_ne h.ptBound hpt
    have hnpt := npt_lt_bufBytes h (by simp [hseq, encrypting])
    exact { h with
      listed := { h.listed with pt := by simp [hseq] }
      ptBound := by
        rw [List.length_append]
        exact hbound
      ptFull := by simp [hseq]
      ptlen := fun _ => by simpa using toNat_ofNat_of_le h (n := s.work.pt.length + 1) (by omega)
      ptlenKept := by simp [hseq]
      ptlenZero := by simp [hseq] }

/-- R264 and R222 in DEC_DIMS. -/
theorem inv_acceptToken (h : SequencerInv s) (hseq : s.seq = .decDims) {t : List Byte} {w k : Nat}
    (hparse : parseToken t = some (w, k)) : SequencerInv (acceptToken w k s) := by
  have hbounds := parseToken_bounds hparse
  have hne : ∀ n, 1 ≤ n → n ≤ 65535 → BitVec.ofNat 16 n ≠ 0 := by
    intro n hpos hle hzero
    have := congrArg BitVec.toNat hzero
    simp only [BitVec.toNat_ofNat, BitVec.ofNat_eq_ofNat] at this
    omega
  have hsum : s.work.sum = [] := h.listed.sum (by simp [hseq]) (by simp [hseq]) (by simp [hseq])
  constructor
  case listed => constructor <;> simp [h.listed.errc, h.listed.pt, h.listed.buf, h.listed.outq, hseq]
  case params => exact h.params
  case ivsrc => exact h.ivsrc
  case key => exact fun _ _ => h.key (by simp [hseq]) (by simp [hseq])
  case noIv => exact fun _ => h.noIv (by simp [hseq, encrypting])
  case noDims => exact fun _ => h.noDims (by simp [hseq, encrypting])
  case ptBound => exact h.ptBound
  case ptlenZero => exact fun _ => h.ptlenZero (by simp [hseq])
  case bufBound => exact h.bufBound
  case ctlen => exact fun _ _ _ => h.ctlen (by simp [hseq]) (by simp [hseq]) (by simp [hseq])
  case rxDims => exact fun _ => ⟨hne w (by omega) (by omega), hne k (by omega) (by omega)⟩
  case marks => exact h.marks
  all_goals simp [encrypting, hsum]

theorem inv_dinToken (h : SequencerInv s) (hseq : s.seq = .decDims) (b : Byte) (l : Bool) :
    SequencerInv (dinToken b l s) := by
  by_cases htok : s.work.tok.length = 11
  · rw [dinToken_of_full b l htok]
    exact inv_raise h.params h.ivsrc (by decide)
  · cases l with
    | false =>
      rw [dinToken_gather b htok]
      have hbound : s.work.tok.length + 1 ≤ 11 := Nat.lt_of_le_of_ne h.tokBound htok
      exact { h with
        listed := { h.listed with tok := fun hne => absurd hseq hne }
        tokBound := by simpa using hbound }
    | true =>
      cases hparse : parseToken (s.work.tok ++ [b]) with
      | none =>
        rw [dinToken_reject b htok hparse]
        exact inv_raise h.params h.ivsrc (by decide)
      | some d =>
        rw [dinToken_accept b htok hparse]
        exact inv_acceptToken h hseq hparse

/-- R264 in DEC_SUM. -/
theorem inv_dinChecksum (h : SequencerInv s) (hseq : s.seq = .decSum) (b : Byte) : SequencerInv (dinChecksum b s) := by
  have hbound := h.sumBound hseq
  by_cases hsum : s.work.sum.length = 31
  · rw [dinChecksum_of_last b hsum]
    constructor
    case listed => constructor <;> simp [h.listed.errc, h.listed.pt, h.listed.tok, h.listed.outq, hsum, hseq]
    case params => exact h.params
    case ivsrc => exact h.ivsrc
    case key => exact fun _ _ => h.key (by simp [hseq]) (by simp [hseq])
    case noIv => exact fun _ => h.noIv (by simp [hseq, encrypting])
    case noDims => exact fun _ => h.noDims (by simp [hseq, encrypting])
    case ptBound => exact h.ptBound
    case ptlenZero => exact fun _ => h.ptlenZero (by simp [hseq])
    case tokBound => exact h.tokBound
    case bufBound => exact h.bufBound
    case ctlen => exact fun _ _ _ => h.ctlen (by simp [hseq]) (by simp [hseq]) (by simp [hseq])
    case rxDims => exact fun _ => h.rxDims (by simp [hseq, tokenAccepted])
    case marks => exact h.marks
    all_goals simp [encrypting]
  · rw [dinChecksum_of_not_last b hsum]
    exact { h with
      listed := { h.listed with
        sum := fun hne => absurd hseq hne
        sumFull := by simp [hseq] }
      sumBound := fun _ => by simp; omega }

/-- R264 in DEC_CT. -/
theorem inv_dinCiphertext (h : SequencerInv s) (hseq : s.seq = .decCt) (b : Byte) :
    SequencerInv (dinCiphertext b s) := by
  by_cases hbuf : s.work.buf.length = s.params.bufBytes
  · rw [dinCiphertext_of_full b hbuf]
    exact inv_raise h.params h.ivsrc (by decide)
  · rw [dinCiphertext_of_not_full b hbuf]
    have hbound : s.work.buf.length + 1 ≤ s.params.bufBytes := Nat.lt_of_le_of_ne h.bufBound hbuf
    exact { h with
      listed := { h.listed with buf := fun hne => absurd hseq hne }
      bufBound := by simpa using hbound
      ctlen := fun _ _ _ => by simpa using toNat_ofNat_of_le h hbound }

theorem inv_dinWrite (h : SequencerInv s) (b : Byte) (l : Bool) : SequencerInv (dinWrite b l s) := by
  have hraise : SequencerInv (raise .sequenceError s) := inv_raise h.params h.ivsrc (by decide)
  cases hseq : s.seq with
  | encIn => exact dinWrite_of_encIn b l hseq ▸ inv_dinPlaintext h hseq b
  | decDims => exact dinWrite_of_decDims b l hseq ▸ inv_dinToken h hseq b l
  | decSum => exact dinWrite_of_decSum b l hseq ▸ inv_dinChecksum h hseq b
  | decCt => exact dinWrite_of_decCt b l hseq ▸ inv_dinCiphertext h hseq b
  | error => exact (dinWrite_of_error b l hseq).symm ▸ h
  | _ =>
    rw [dinWrite_out_of_sequence b l (by simp [hseq])]
    exact hraise

/-- R57: the end mark is on the last item. -/
theorem rest_eq_nil_of_last {it : OutItem} {rest : List OutItem} (hmarks : endsMarked (it :: rest) = true)
    (hlast : it.last = true) : rest = [] := by
  cases rest with
  | nil => rfl
  | cons x xs => simp [endsMarked, hlast] at hmarks

theorem endsMarked_tail {it : OutItem} {rest : List OutItem} (hmarks : endsMarked (it :: rest) = true)
    (hlast : it.last = false) : rest ≠ [] ∧ endsMarked rest = true := by
  cases rest with
  | nil => simp [endsMarked, hlast] at hmarks
  | cons x xs => simpa [endsMarked, hlast] using hmarks

/-- Only the two output states have items to read. -/
theorem seq_of_outq_ne_nil (h : SequencerInv s) (hq : s.work.outq ≠ []) : s.seq = .encOut ∨ s.seq = .decOut := by
  by_contra hseq
  obtain ⟨henc, hdec⟩ := not_or.1 hseq
  exact hq (h.listed.outq henc hdec)

/-- R265: the end of a transfer leaves nothing of it. -/
theorem endTransfer_work_eq_empty (h : SequencerInv s) (hseq : s.seq = .encOut ∨ s.seq = .decOut) :
    (endTransfer { s with work := { s.work with outq := [] } }).work = Working.empty := by
  have hpt : s.work.pt = [] := h.listed.pt (by aesop) (by aesop)
  have htok : s.work.tok = [] := h.listed.tok (by aesop)
  have hsum : s.work.sum = [] := h.listed.sum (by aesop) (by aesop) (by aesop)
  simp [Working.empty, hpt, htok, hsum]

/-- R265: a DOUT read. -/
theorem inv_popOut (h : SequencerInv s) : SequencerInv (popOut s) := by
  obtain ⟨_, heq⟩ | ⟨it, rest, hq, hlast, heq⟩ | ⟨it, rest, hq, hlast, heq⟩ := popOut_cases s <;> rw [heq]
  · exact h
  · have hseq := seq_of_outq_ne_nil h (by simp [hq])
    obtain ⟨hne, hmarks⟩ := endsMarked_tail (hq ▸ h.marks) hlast
    exact { h with
      listed := { h.listed with
        outq := fun henc hdec => absurd hseq (not_or.2 ⟨henc, hdec⟩)
        outqFilled := fun _ => hne }
      marks := hmarks }
  · have hseq := seq_of_outq_ne_nil h (by simp [hq])
    have hmarks : endsMarked (it :: rest) = true := hq ▸ h.marks
    rw [rest_eq_nil_of_last hmarks hlast]
    refine inv_of_empty h.params h.ivsrc (endTransfer_work_eq_empty h hseq) (.inl ⟨rfl, ?_⟩)
    exact h.listed.errc (by aesop)

/-- R242: a command keeps what its own rule keeps where it is legal. -/
theorem inv_command (h : SequencerInv s) {i : Instr} {body : State → State}
    (hbody : legal i s.seq = true → SequencerInv (body s)) : SequencerInv (command i body s) := by
  obtain ⟨_, heq⟩ | ⟨_, hlegal, heq⟩ | ⟨_, _, heq⟩ := command_cases i body s <;> rw [heq]
  · exact h
  · exact hbody hlegal
  · exact inv_raise h.params h.ivsrc (by decide)

theorem inv_effect (h : SequencerInv s) (i : Instr) : SequencerInv (effect i s) := by
  cases i with
  | nop => exact h
  | abort => exact inv_abortTransfer h
  | encBegin => exact inv_command h fun hlegal => inv_encBegin h (by simpa [legal] using hlegal)
  | encFinal => exact inv_command h fun hlegal => inv_encFinal h (by simpa [legal] using hlegal)
  | decBegin => exact inv_command h fun hlegal => inv_decBegin h (by simpa [legal] using hlegal)
  | rxEos => exact inv_command h fun hlegal => inv_rxEos h (by simpa [legal, or_assoc] using hlegal)
  | din b l x => exact inv_dinWrite h b l
  | dout => exact inv_respond (inv_popOut h) _

/-- R216: the serializer always has something to send. -/
theorem serializerQueue_ne_nil (w h : Nat) {c : List Byte} (hc : c ≠ []) : serializerQueue w h c ≠ [] := by
  simp [serializerQueue, segmentItems_eq_nil, hc]

theorem endsMarked_serializerQueue (w h : Nat) {c : List Byte} (hc : c ≠ []) :
    endsMarked (serializerQueue w h c) = true := by
  refine endsMarked_append _ _ ?_ (endsMarked_segmentItems c) (by simpa [segmentItems_eq_nil] using hc)
  intro it hit
  obtain hit | hit := List.mem_append.1 hit <;> exact segmentItems_not_last _ it hit

/-- R256: the ciphertext of a complete plaintext fits BUF. -/
theorem encCiphertext_length (s : State) : (encCiphertext s).length = ciphertextLen s.work.pt.length :=
  encrypt_length _ _ (by simp)

/-- R256: the completion of an encryption. -/
theorem inv_encComplete (h : SequencerInv s) (hseq : s.seq = .encProc) : SequencerInv (encComplete s) := by
  have hpt := h.ptFull hseq
  have hdims := h.dims (by simp [hseq, encrypting])
  have hlen : (encCiphertext s).length ≤ s.params.bufBytes := by
    rw [encCiphertext_length, hpt]
    exact hdims.2.2
  have hne : encCiphertext s ≠ [] := by
    rw [← List.length_pos_iff, encCiphertext_length]
    unfold ciphertextLen
    omega
  constructor
  case listed => constructor <;> simp [h.listed.errc, h.listed.tok, h.listed.sum, hseq, serializerQueue_ne_nil _ _ hne]
  case params => exact h.params
  case ivsrc => exact h.ivsrc
  case key => exact fun _ _ => h.key (by simp [hseq]) (by simp [hseq])
  case dims => exact fun _ => hdims
  case ptBound => simp
  case ptlenKept => exact fun _ => (h.ptlen (.inr hseq)).trans hpt
  case tokBound => exact h.tokBound
  case bufBound => exact hlen
  case ctlen => exact fun _ _ _ => toNat_ofNat_of_le h hlen
  case rxZero => exact fun _ => h.rxZero (by simp [hseq, encrypting])
  case marks => exact endsMarked_serializerQueue _ _ hne
  all_goals simp [encrypting, tokenAccepted]

/-- R222: accepted dimensions ask for at least one plaintext byte. -/
theorem rxBytes_pos (h : SequencerInv s) (hseq : tokenAccepted s.seq = true) : 0 < rxBytes s := by
  obtain ⟨hw, hh⟩ := h.rxDims hseq
  have hwpos : 0 < s.res.rxWidth.toNat := Nat.pos_of_ne_zero fun h0 => hw (BitVec.eq_of_toNat_eq h0)
  have hhpos : 0 < s.res.rxHeight.toNat := Nat.pos_of_ne_zero fun h0 => hh (BitVec.eq_of_toNat_eq h0)
  unfold rxBytes imageBytes
  positivity

/-- R261: the release of a plaintext. -/
theorem inv_release (h : SequencerInv s) (hseq : s.seq = .decProc) {r : List Byte} (hr : r.length = rxBytes s) :
    SequencerInv (releasePlaintext r (storePtlen r.length (storeDigest s))) := by
  have hne : r ≠ [] := by
    rw [← List.length_pos_iff, hr]
    exact rxBytes_pos h (by simp [hseq, tokenAccepted])
  have houtq : plaintextQueue r ≠ [] := by simpa [plaintextQueue, segmentItems_eq_nil] using hne
  constructor
  case listed => constructor <;> simp [h.listed.errc, h.listed.pt, h.listed.tok, hseq, houtq]
  case params => exact h.params
  case ivsrc => exact h.ivsrc
  case key => exact fun _ _ => h.key (by simp [hseq]) (by simp [hseq])
  case noIv => exact fun _ => h.noIv (by simp [hseq, encrypting])
  case noDims => exact fun _ => h.noDims (by simp [hseq, encrypting])
  case ptBound => exact h.ptBound
  case tokBound => exact h.tokBound
  case rxDims => exact fun _ => h.rxDims (by simp [hseq, tokenAccepted])
  case marks => exact endsMarked_segmentItems r
  all_goals simp [encrypting]

theorem inv_decComplete (h : SequencerInv s) (hseq : s.seq = .decProc) : SequencerInv (decComplete s) := by
  obtain ⟨_, heq⟩ | ⟨_, _, heq⟩ | ⟨r, _, _, _, heq⟩ | ⟨r, _, _, hr, heq⟩ := decComplete_cases s <;> rw [heq]
  · exact inv_raise (s := storeDigest s) h.params h.ivsrc (by decide)
  · exact inv_raise (s := storeDigest s) h.params h.ivsrc (by decide)
  · exact inv_raise (s := storePtlen r.length (storeDigest s)) h.params h.ivsrc (by decide)
  · exact inv_release h hseq hr

theorem inv_engineStep (h : SequencerInv s) : SequencerInv (engineStep s) := by
  obtain ⟨hseq, heq⟩ | ⟨hseq, heq⟩ | ⟨_, heq⟩ := engineStep_cases s <;> rw [heq]
  · exact inv_encComplete h hseq
  · exact inv_decComplete h hseq
  · exact h

theorem inv_illegalCommand (h : SequencerInv s) : SequencerInv (illegalCommand s) := by
  obtain ⟨_, heq⟩ | ⟨_, heq⟩ := illegalCommand_cases s <;> rw [heq]
  · exact h
  · exact inv_raise h.params h.ivsrc (by decide)

end

theorem inv_busEffect {op : BusOp} {s t : State} (heffect : BusEffect s op t) (h : SequencerInv s) :
    SequencerInv t := by
  cases heffect with
  | instr i => exact inv_effect h i
  | illegal v _ => exact inv_illegalCommand h
  | read off _ w => exact inv_respond h w
  | write r v _ _ => exact inv_writeReg h r v
  | ignored off v _ => exact h

/-- Settles O44: every step is one of the things above. -/
theorem everyStepKeepsTheInvariants : Obligations.EveryStepKeepsTheInvariants := by
  intro s t h hstep
  exact step_keeps (P := SequencerInv) (fun _ rest h => inv_setQueue h rest) (fun _ => inv_engineStep)
    (fun _ => inv_platformReset) (fun _ _ _ => inv_busEffect) h hstep

/-- Settles O43: reset leaves IDLE with nothing in the working state. -/
theorem resetHasTheInvariants : Obligations.ResetHasTheInvariants :=
  fun _ _ hp => inv_of_empty hp (fun hsrc => absurd hsrc Bool.false_ne_true) rfl (.inl ⟨rfl, rfl⟩)

/-- R340: the invariants hold in every reachable state. -/
theorem inv_of_reachable {s : State} (h : Reachable s) : SequencerInv s := by
  induction h with
  | reset p events hp => exact resetHasTheInvariants p events hp
  | step s t _ hstep ih => exact everyStepKeepsTheInvariants s t ih hstep

/-- Settles O45: R59's lines are part of the invariants. -/
theorem listedInvariantsHoldWhenReachable : Obligations.ListedInvariantsHoldWhenReachable :=
  fun _ h => (inv_of_reachable h).listed

end Sys2Proof.Proofs

/-! PROOFS. The transition table (spec/44_commands.md R269) and what follows from it or from the step's cases: ERROR
lasts (R266, R305), no partial plaintext (R263), interrupt bits are sticky (R28, R311). -/

namespace Sys2Proof.Proofs

open Sys2Proof Sys2Proof.Machine Sys2Proof.Laws Sys2Proof.Safety

/-! A register write touches the configuration and INT_STATUS only. -/

section
variable (r : Reg) (v : Word) (s : State)

@[simp] theorem writeReg_params : (writeReg r v s).params = s.params := by unfold writeReg; split <;> rfl
@[simp] theorem writeReg_work : (writeReg r v s).work = s.work := by unfold writeReg; split <;> rfl
@[simp] theorem writeReg_seq : (writeReg r v s).seq = s.seq := by unfold writeReg; split <;> rfl
@[simp] theorem writeReg_errc : (writeReg r v s).errc = s.errc := by unfold writeReg; split <;> rfl

/-- R267: a write to any register but INT_STATUS touches the configuration only. -/
theorem exists_cfg_of_writeReg {r : Reg} (hr : r ≠ .intStatus) (v : Word) (s : State) :
    ∃ c, writeReg r v s = { s with cfg := c } := by
  cases r with
  | intStatus => contradiction
  | _ => exact ⟨_, rfl⟩

end

/-- What happens on each cause of the table, as far as STATE and ERRC are concerned. -/
def perform (c : Cause) (s : State) : State :=
  match c with
  | .cmd v =>
    match commandOf v with
    | some i => effect i s
    | none => illegalCommand s
  | .din b l => dinWrite b l s
  | .dout => respond (doutWord s.work.outq) (popOut s)
  | .engine => engineStep s
  | .reset => platformReset s
  | .other => s

theorem perform_cmd {v : Word} {i : Instr} (hv : commandOf v = some i) (s : State) :
    perform (.cmd v) s = effect i s := by
  simp only [perform, hv]

theorem perform_illegal {v : Word} (hv : commandOf v = none) (s : State) :
    perform (.cmd v) s = illegalCommand s := by
  simp only [perform, hv]

/-- The cause a bus operation is. -/
theorem causeOf_toAccess (base : Nat) {op : BusOp} (hwf : op.wf = true) :
    causeOf base (.access (op.toAccess base)) =
      match op with
      | .read off => if off = 0x38 then .dout else .other
      | .write off v =>
        if off = 0x10 then .cmd v
        else if off = 0x34 then .din (v.extractLsb' 0 8) (v.getLsbD 8)
        else .other := by
  cases op <;> simp only [causeOf, addressDecode_toAccess base _ hwf]

theorem causeOf_write_of_ne (base : Nat) {off : Nat} {v : Word} (hwf : (BusOp.write off v).wf = true)
    (hcmd : off ≠ 0x10) (hdin : off ≠ 0x34) : causeOf base (.access ((BusOp.write off v).toAccess base)) = .other := by
  rw [causeOf_toAccess base hwf]
  simp only [if_neg hcmd, if_neg hdin]

/-- 10_state.md section 2: registers are told apart by their offsets. -/
theorem eq_of_offset_eq {r q : Reg} (h : r.offset = q.offset) : r = q := by
  have := regAt_offset r
  rw [h, regAt_offset q] at this
  exact (Option.some.inj this).symm

/-- R100: an instruction's own cause performs it. -/
theorem perform_encode (base : Nat) (i : Instr) (s : State) :
    perform (causeOf base (.access ((encode i).toAccess base))) s = effect i s := by
  rw [causeOf_toAccess base (encodedInWindow i).2.1]
  cases i with
  | din data last ignored =>
    have hfields := dinOf_dinWord data last ignored
    simp only [dinOf, Instr.din.injEq] at hfields
    obtain ⟨hdata, hlast, _⟩ := hfields
    change dinWrite _ _ s = dinWrite data last s
    rw [hdata, hlast]
  | _ => rfl

/-- R9: an event leaves STATE and ERRC as its cause says. -/
theorem seq_errc_of_takeEvent {e : Event} {s t : State} (h : takeEvent e s = .next t) :
    t.seq = (perform (causeOf s.params.base e) s).seq ∧ t.errc = (perform (causeOf s.params.base e) s).errc := by
  obtain ⟨op, hwf, rfl, heffect⟩ | ⟨rfl, rfl⟩ | ⟨rfl, rfl⟩ := takeEvent_cases h
  · cases heffect with
    | instr i => simp only [perform_encode, and_self]
    | illegal v hv =>
      rw [causeOf_toAccess _ hwf, ← perform_illegal hv]
      simp
    | read off hoff w =>
      rw [causeOf_toAccess _ hwf]
      simp [hoff, perform]
    | write r v hcmd hdin =>
      rw [causeOf_write_of_ne _ hwf (fun h => hcmd (eq_of_offset_eq (q := .cmd) h))
        (fun h => hdin (eq_of_offset_eq (q := .din) h))]
      simp [perform]
    | ignored off v hoff =>
      have hne : ∀ r : Reg, off ≠ r.offset := by
        rintro r rfl
        simp [regAt_offset] at hoff
      rw [causeOf_write_of_ne _ hwf (hne .cmd) (hne .din)]
      exact ⟨rfl, rfl⟩
  · exact ⟨rfl, rfl⟩
  · exact ⟨rfl, rfl⟩

/-- R269, one half: STATE and ERRC stay, or a row of the table takes them where they go. -/
def StaysOrListed (s : State) (c : Cause) (t : State) : Prop :=
  (t.seq = s.seq ∧ t.errc = s.errc) ∨ Listed s c t.seq t.errc

section
variable {s t : State} {c : Cause}

theorem stays (hseq : t.seq = s.seq) (herrc : t.errc = s.errc) : StaysOrListed s c t := .inl ⟨hseq, herrc⟩

theorem listed {q : SeqState} {e : ErrCode} (hlisted : Listed s c q e) (hseq : t.seq = q) (herrc : t.errc = e) :
    StaysOrListed s c t := by
  subst hseq herrc
  exact .inr hlisted

/-- R59: outside ERROR there is no error code. -/
theorem errc_of_seq (s : State) (h : SequencerInv s) {q : SeqState} (hseq : s.seq = q) (hq : q ≠ .error) :
    s.errc = .noError :=
  h.listed.errc (hseq ▸ hq)

theorem staysOrListed_encBegin (h : SequencerInv s) (hseq : s.seq = .idle) :
    StaysOrListed s (.cmd 0x10) (encBegin s) := by
  obtain ⟨hk, heq⟩ | ⟨hk, hd, heq⟩ | ⟨hk, hw, hh, hc, heq⟩ | ⟨hk, hw, hh, hc, heq⟩ := encBegin_cases s <;> rw [heq]
  · exact listed (.encBeginKey hseq hk) rfl rfl
  · exact listed (.encBeginDims hseq hk hd) rfl rfl
  · exact listed (.encBeginCapacity hseq hk hw hh hc) rfl rfl
  · exact listed (.encBegin hseq hk hw hh hc) rfl ((encLatch_errc s).trans (errc_of_seq s h hseq (by decide)))

theorem staysOrListed_decBegin (h : SequencerInv s) (hseq : s.seq = .idle) :
    StaysOrListed s (.cmd 0x20) (decBegin s) := by
  cases hk : legalKeyLen s.cfg.keylen.toNat
  · rw [decBegin_of_not_legalKeyLen hk]
    exact listed (.decBeginKey hseq hk) rfl rfl
  · rw [decBegin_of_legalKeyLen hk]
    exact listed (.decBegin hseq hk) rfl (errc_of_seq s h hseq (by decide))

theorem staysOrListed_encFinal (h : SequencerInv s) (hseq : s.seq = .encIn) :
    StaysOrListed s (.cmd 0x11) (encFinal s) := by
  by_cases hpt : s.work.pt.length = npt s
  · rw [encFinal_of_complete hpt]
    exact listed (.encFinal hseq hpt) rfl (errc_of_seq s h hseq (by decide))
  · rw [encFinal_of_not_complete hpt]
    exact listed (.encFinalShort hseq hpt) rfl rfl

theorem staysOrListed_rxEos (h : SequencerInv s) (hseq : s.seq = .decDims ∨ s.seq = .decSum ∨ s.seq = .decCt) :
    StaysOrListed s (.cmd 0x21) (rxEos s) := by
  by_cases hearly : s.seq = .decDims ∨ s.seq = .decSum
  · rw [rxEos_of_early hearly]
    exact listed (.eosEarly hearly) rfl rfl
  · have hct : s.seq = .decCt := by tauto
    rw [rxEos_of_decCt hct]
    exact listed (.eos hct) rfl (errc_of_seq s h hct (by decide))

/-- R242, R266: a command is ignored, out of sequence, or follows its own rows. -/
theorem staysOrListed_command {v : Word} {i : Instr} {body : State → State} (hv : commandOf v = some i)
    (hbody : legal i s.seq = true → StaysOrListed s (.cmd v) (body s)) :
    StaysOrListed s (.cmd v) (command i body s) := by
  obtain ⟨_, heq⟩ | ⟨_, hlegal, heq⟩ | ⟨herror, hlegal, heq⟩ := command_cases i body s <;> rw [heq]
  · exact stays rfl rfl
  · exact hbody hlegal
  · exact listed (.notLegal v i herror hv hlegal) rfl rfl

theorem staysOrListed_cmd (h : SequencerInv s) (v : Word) : StaysOrListed s (.cmd v) (perform (.cmd v) s) := by
  cases hv : commandOf v with
  | none =>
    rw [perform_illegal hv]
    obtain ⟨_, heq⟩ | ⟨herror, heq⟩ := illegalCommand_cases s <;> rw [heq]
    · exact stays rfl rfl
    · exact listed (.illegalWord v herror hv) rfl rfl
  | some i =>
    rw [perform_cmd hv]
    obtain ⟨rfl, rfl⟩ | ⟨rfl, rfl⟩ | ⟨rfl, rfl⟩ | ⟨rfl, rfl⟩ | ⟨rfl, rfl⟩ | ⟨rfl, rfl⟩ := commandOf_cases hv
    · exact stays rfl rfl
    · exact listed .abort rfl rfl
    · exact staysOrListed_command hv fun hl => staysOrListed_encBegin h (by simpa [legal] using hl)
    · exact staysOrListed_command hv fun hl => staysOrListed_encFinal h (by simpa [legal] using hl)
    · exact staysOrListed_command hv fun hl => staysOrListed_decBegin h (by simpa [legal] using hl)
    · exact staysOrListed_command hv fun hl => staysOrListed_rxEos h (by simpa [legal, or_assoc] using hl)

theorem staysOrListed_din (h : SequencerInv s) (b : Byte) (l : Bool) :
    StaysOrListed s (.din b l) (dinWrite b l s) := by
  obtain ⟨hseq, hn, heq⟩ | ⟨hseq, hn, heq⟩ | ⟨hseq, hn, heq⟩ | ⟨hseq, hn, rfl, heq⟩ | ⟨hseq, hn, rfl, hp, heq⟩ |
    ⟨w, k, hseq, hn, rfl, hp, heq⟩ | ⟨hseq, heq⟩ | ⟨hseq, hn, heq⟩ | ⟨hseq, hn, heq⟩ | ⟨hseq, heq⟩ | ⟨hseq, heq⟩ :=
    dinWrite_cases b l s <;> rw [heq]
  · exact listed (.overrun b l hseq hn) rfl rfl
  · exact stays rfl rfl
  · exact listed (.tokenLong b l hseq hn) rfl rfl
  · exact stays rfl rfl
  · exact listed (.tokenBad b hseq (Nat.lt_of_le_of_ne h.tokBound hn) hp) rfl rfl
  · exact listed (.tokenGood b _ hseq (Nat.lt_of_le_of_ne h.tokBound hn) hp) rfl (errc_of_seq s h hseq (by decide))
  · by_cases hlast : (s.work.sum ++ [b]).length = 32
    · rw [if_pos hlast]
      exact listed (.checksumLast b l hseq (by simpa using hlast)) rfl (errc_of_seq s h hseq (by decide))
    · rw [if_neg hlast]
      exact stays rfl rfl
  · exact listed (.ciphertextFull b l hseq hn) rfl rfl
  · exact stays rfl rfl
  · exact stays rfl rfl
  · exact listed (.dinNotLegal b l hseq) rfl rfl

theorem staysOrListed_dout (h : SequencerInv s) (w : Word) : StaysOrListed s .dout (respond w (popOut s)) := by
  obtain ⟨_, heq⟩ | ⟨it, rest, hq, hlast, heq⟩ | ⟨it, rest, hq, hlast, heq⟩ := popOut_cases s <;> rw [heq]
  · exact stays rfl rfl
  · exact stays rfl rfl
  · obtain hseq | hseq := seq_of_outq_ne_nil h (by simp [hq])
    · exact listed (.encEnd it rest hseq hq hlast) rfl (errc_of_seq s h hseq (by decide))
    · exact listed (.decEnd it rest hseq hq hlast) rfl (errc_of_seq s h hseq (by decide))

/-- R261: the completion of a decryption ends as `decOutcome` says. -/
theorem decComplete_outcome (h : SequencerInv s) (hseq : s.seq = .decProc) :
    (decComplete s).seq = (decOutcome s).1 ∧ (decComplete s).errc = (decOutcome s).2 := by
  have herrc := errc_of_seq s h hseq (by decide)
  obtain ⟨hv, heq⟩ | ⟨hv, hd, heq⟩ | ⟨r, hv, hd, hr, heq⟩ | ⟨r, hv, hd, hr, heq⟩ := decComplete_cases s <;>
    rw [heq] <;> simp [decOutcome, *]

theorem staysOrListed_engine (h : SequencerInv s) : StaysOrListed s .engine (engineStep s) := by
  obtain ⟨hseq, heq⟩ | ⟨hseq, heq⟩ | ⟨_, heq⟩ := engineStep_cases s <;> rw [heq]
  · exact listed (.encComplete hseq) rfl (errc_of_seq s h hseq (by decide))
  · obtain ⟨hq, he⟩ := decComplete_outcome h hseq
    exact listed (.decComplete hseq) hq he
  · exact stays rfl rfl

theorem staysOrListed_perform (h : SequencerInv s) (hc : c ≠ .reset) : StaysOrListed s c (perform c s) := by
  cases c with
  | cmd v => exact staysOrListed_cmd h v
  | din b l => exact staysOrListed_din h b l
  | dout => exact staysOrListed_dout h _
  | engine => exact staysOrListed_engine h
  | reset => contradiction
  | other => exact stays rfl rfl

theorem effect_of_not_legal {i : Instr} (herror : s.seq ≠ .error) (hlegal : legal i s.seq = false) :
    effect i s = raise .sequenceError s := by
  cases i with
  | encBegin => exact command_of_not_legal herror hlegal
  | encFinal => exact command_of_not_legal herror hlegal
  | decBegin => exact command_of_not_legal herror hlegal
  | rxEos => exact command_of_not_legal herror hlegal
  | _ => simp [legal] at hlegal

/-- R269, the other half: where a row applies, it is what happens. -/
theorem perform_of_listed (h : SequencerInv s) {q : SeqState} {e : ErrCode} (hlisted : Listed s c q e) :
    (perform c s).seq = q ∧ (perform c s).errc = e := by
  cases hlisted with
  | abort => exact ⟨rfl, rfl⟩
  | illegalWord v herror hv =>
    rw [perform_illegal hv, illegalCommand, if_neg herror]
    exact ⟨rfl, rfl⟩
  | notLegal v i herror hv hlegal =>
    rw [perform_cmd hv, effect_of_not_legal herror hlegal]
    exact ⟨rfl, rfl⟩
  | encBegin hseq hk hw hh hc =>
    rw [perform_cmd (i := .encBegin) rfl, effect_encBegin_of_idle hseq, encBegin_of_fits hk hw hh hc]
    exact ⟨rfl, (encLatch_errc s).trans (errc_of_seq s h hseq (by decide))⟩
  | encBeginKey hseq hk =>
    rw [perform_cmd (i := .encBegin) rfl, effect_encBegin_of_idle hseq, encBegin_of_badKey hk]
    exact ⟨rfl, rfl⟩
  | encBeginDims hseq hk hd =>
    rw [perform_cmd (i := .encBegin) rfl, effect_encBegin_of_idle hseq, encBegin_of_badDims hk hd]
    exact ⟨rfl, rfl⟩
  | encBeginCapacity hseq hk hw hh hc =>
    rw [perform_cmd (i := .encBegin) rfl, effect_encBegin_of_idle hseq, encBegin_of_not_fits hk hw hh hc]
    exact ⟨rfl, rfl⟩
  | decBegin hseq hk =>
    rw [perform_cmd (i := .decBegin) rfl, effect_decBegin_of_idle hseq, decBegin_of_legalKeyLen hk]
    exact ⟨rfl, errc_of_seq s h hseq (by decide)⟩
  | decBeginKey hseq hk =>
    rw [perform_cmd (i := .decBegin) rfl, effect_decBegin_of_idle hseq, decBegin_of_not_legalKeyLen hk]
    exact ⟨rfl, rfl⟩
  | dinNotLegal b l hseq =>
    rw [perform, dinWrite_out_of_sequence b l hseq]
    exact ⟨rfl, rfl⟩
  | plaintext b l hseq hn =>
    rw [perform, dinWrite_of_encIn b l hseq, dinPlaintext_of_not_full b (Nat.ne_of_lt hn)]
    exact ⟨hseq, errc_of_seq s h hseq (by decide)⟩
  | overrun b l hseq hn =>
    rw [perform, dinWrite_of_encIn b l hseq, dinPlaintext_of_full b hn]
    exact ⟨rfl, rfl⟩
  | encFinal hseq hn =>
    rw [perform_cmd (i := .encFinal) rfl, effect_encFinal_of_encIn hseq, encFinal_of_complete hn]
    exact ⟨rfl, errc_of_seq s h hseq (by decide)⟩
  | encFinalShort hseq hn =>
    rw [perform_cmd (i := .encFinal) rfl, effect_encFinal_of_encIn hseq, encFinal_of_not_complete hn]
    exact ⟨rfl, rfl⟩
  | encComplete hseq =>
    simp only [perform, engineStep, hseq]
    exact ⟨rfl, errc_of_seq s h hseq (by decide)⟩
  | encPop it rest hseq hq hl =>
    rw [perform, popOut_of_not_last hq hl]
    exact ⟨hseq, errc_of_seq s h hseq (by decide)⟩
  | encEnd it rest hseq hq hl =>
    rw [perform, popOut_of_last hq hl]
    exact ⟨rfl, errc_of_seq s h hseq (by decide)⟩
  | token b hseq hn =>
    rw [perform, dinWrite_of_decDims b false hseq, dinToken_gather b (Nat.ne_of_lt hn)]
    exact ⟨hseq, errc_of_seq s h hseq (by decide)⟩
  | tokenLong b l hseq hn =>
    rw [perform, dinWrite_of_decDims b l hseq, dinToken_of_full b l hn]
    exact ⟨rfl, rfl⟩
  | tokenGood b d hseq hn hp =>
    rw [perform, dinWrite_of_decDims b true hseq, dinToken_accept b (Nat.ne_of_lt hn) hp]
    exact ⟨rfl, errc_of_seq s h hseq (by decide)⟩
  | tokenBad b hseq hn hp =>
    rw [perform, dinWrite_of_decDims b true hseq, dinToken_reject b (Nat.ne_of_lt hn) hp]
    exact ⟨rfl, rfl⟩
  | eosEarly hseq =>
    rw [perform_cmd (i := .rxEos) rfl, effect_rxEos_of_receiving (hseq.imp_right .inl), rxEos_of_early hseq]
    exact ⟨rfl, rfl⟩
  | checksum b l hseq hn =>
    rw [perform, dinWrite_of_decSum b l hseq, dinChecksum_of_not_last b (by omega)]
    exact ⟨hseq, errc_of_seq s h hseq (by decide)⟩
  | checksumLast b l hseq hn =>
    rw [perform, dinWrite_of_decSum b l hseq, dinChecksum_of_last b (by omega)]
    exact ⟨rfl, errc_of_seq s h hseq (by decide)⟩
  | ciphertext b l hseq hn =>
    rw [perform, dinWrite_of_decCt b l hseq, dinCiphertext_of_not_full b (Nat.ne_of_lt hn)]
    exact ⟨hseq, errc_of_seq s h hseq (by decide)⟩
  | ciphertextFull b l hseq hn =>
    rw [perform, dinWrite_of_decCt b l hseq, dinCiphertext_of_full b hn]
    exact ⟨rfl, rfl⟩
  | eos hseq =>
    rw [perform_cmd (i := .rxEos) rfl, effect_rxEos_of_receiving (.inr (.inr hseq)), rxEos_of_decCt hseq]
    exact ⟨rfl, errc_of_seq s h hseq (by decide)⟩
  | decComplete hseq =>
    simp only [perform, engineStep, hseq]
    exact decComplete_outcome h hseq
  | decPop it rest hseq hq hl =>
    rw [perform, popOut_of_not_last hq hl]
    exact ⟨hseq, errc_of_seq s h hseq (by decide)⟩
  | decEnd it rest hseq hq hl =>
    rw [perform, popOut_of_last hq hl]
    exact ⟨rfl, errc_of_seq s h hseq (by decide)⟩

/-- The table does not look at the events still to come. -/
theorem listed_setQueue {q : SeqState} {e : ErrCode} (rest : List Event) (hlisted : Listed s c q e) :
    Listed { s with queue := rest } c q e := by
  cases hlisted with
  | tokenBad b hseq hn hp => exact .tokenBad b hseq hn hp
  | ciphertext b l hseq hn => exact .ciphertext b l hseq hn
  | decEnd it rest hseq hq hl => exact .decEnd it rest hseq hq hl
  | _ => constructor <;> assumption

end

/-- A cause other than a reset is that of an event other than a reset. -/
theorem causeOf_ne_reset {e : Event} (he : e ≠ .reset) (base : Nat) : causeOf base e ≠ .reset := by
  cases e with
  | access a =>
    simp only [causeOf]
    repeat' split
    all_goals simp
  | engine => simp [causeOf]
  | reset => contradiction

/-- Settles O46: the event performs its cause, whose outcomes are the rows. -/
theorem transitionTableIsExact : Obligations.TransitionTableIsExact := by
  intro s t e rest h hq he hstep
  have htake : takeEvent e { s with queue := rest } = .next t := by simpa only [step, hq] using hstep
  have h' := inv_setQueue h rest
  obtain ⟨hseq, herrc⟩ := seq_errc_of_takeEvent htake
  rw [hseq, herrc]
  refine ⟨?_, fun q c hlisted => perform_of_listed h' (listed_setQueue rest hlisted)⟩
  obtain hstay | hlisted := staysOrListed_perform h' (causeOf_ne_reset he s.params.base)
  · exact .inl hstay
  · have hlisted := listed_setQueue s.queue hlisted
    exact .inr hlisted

/-- R263: the only way into DEC_OUT is the engine's, from DEC_PROC. -/
theorem eq_engine_of_perform_decOut {s : State} (h : SequencerInv s) {c : Cause}
    (hout : (perform c s).seq = .decOut) (hs : s.seq ≠ .decOut) : c = .engine ∧ s.seq = .decProc := by
  have hc : c ≠ .reset := by
    rintro rfl
    cases hout
  obtain ⟨hstay, _⟩ | hlisted := staysOrListed_perform h hc
  · exact absurd (hstay.symm.trans hout) hs
  · rw [hout] at hlisted
    generalize hq : SeqState.decOut = q at hlisted
    generalize (perform c s).errc = e at hlisted
    cases hlisted with
    | decComplete hseq => exact ⟨rfl, hseq⟩
    | decPop _ _ hseq => exact absurd hseq hs
    | _ => cases hq

/-- R261, R263: a completion that releases anything has passed every check, and releases the whole plaintext. -/
theorem release_of_decComplete {s : State} (hout : (decComplete s).seq = .decOut) :
    ∃ r, verify s.work.buf s.work.sum = true ∧ decrypt s.work.wkey s.work.buf = some r ∧ r.length = rxBytes s ∧
      (decComplete s).work.outq = plaintextQueue r := by
  obtain ⟨_, heq⟩ | ⟨_, _, heq⟩ | ⟨r, _, _, _, heq⟩ | ⟨r, hv, hd, hr, heq⟩ := decComplete_cases s
  · rw [heq] at hout
    cases hout
  · rw [heq] at hout
    cases hout
  · rw [heq] at hout
    cases hout
  · exact ⟨r, hv, hd, hr, by rw [heq]; rfl⟩

theorem release_of_engineStep {s : State} (hseq : s.seq = .decProc) (hout : (engineStep s).seq = .decOut) :
    s.seq = .decProc ∧ s.work.sum = hexText (md5 s.work.buf).toList ∧
      ∃ r, decrypt s.work.wkey s.work.buf = some r ∧ r.length = 3 * s.res.rxWidth.toNat * s.res.rxHeight.toNat ∧
        (engineStep s).work.outq = plaintextQueue r := by
  have hengine : engineStep s = decComplete s := by simp only [engineStep, hseq]
  rw [hengine] at hout ⊢
  obtain ⟨r, hv, hd, hr, houtq⟩ := release_of_decComplete hout
  exact ⟨hseq, (verify_iff _ _).1 hv, r, hd, hr, houtq⟩

theorem takeEvent_engine_of_cause {e : Event} {s t : State} (h : takeEvent e s = .next t)
    (hcause : causeOf s.params.base e = .engine) : t = engineStep s := by
  cases e with
  | access a =>
    simp only [causeOf] at hcause
    repeat' split at hcause
    all_goals cases hcause
  | engine => cases h; rfl
  | reset => cases hcause

/-- Settles O30: DEC_OUT is entered by the completion alone, and ERROR has an empty output queue. -/
theorem noPartialPlaintext : Obligations.NoPartialPlaintext := by
  intro s t h hstep
  refine ⟨fun hout hs => ?_, fun herror => ?_⟩
  · obtain ⟨_, rfl⟩ | ⟨e, rest, _, htake⟩ := step_cases hstep
    · obtain ⟨_, hseq⟩ := eq_engine_of_perform_decOut (c := .engine) h hout hs
      exact release_of_engineStep hseq hout
    · have hperform := (seq_errc_of_takeEvent htake).1
      obtain ⟨hcause, hseq⟩ := eq_engine_of_perform_decOut (inv_setQueue h rest) (hperform.symm.trans hout) hs
      obtain rfl := takeEvent_engine_of_cause htake hcause
      exact release_of_engineStep (s := { s with queue := rest }) hseq hout
  · have hwork := work_eq_empty (everyStepKeepsTheInvariants s t h hstep) (.inr herror)
    simp [readReg, hwork, Working.empty, doutWord]

/-- R266: in ERROR only ABORT and DOUT do anything. -/
theorem effect_of_error {s : State} {i : Instr} (herror : s.seq = .error) (habort : i ≠ .abort) (hdout : i ≠ .dout) :
    effect i s = s := by
  cases i with
  | nop => rfl
  | abort => contradiction
  | dout => contradiction
  | din b l x => exact dinWrite_of_error b l herror
  | _ => exact command_of_error herror

/-- R305, R307: the states an error lasts in. -/
def StillFailed (code : ErrCode) (s : State) : Prop := s.seq = .error ∧ s.errc = code ∧ s.work = Working.empty

theorem stillFailed_busEffect {code : ErrCode} {s t : State} {op : BusOp} (heffect : BusEffect s op t)
    (h : StillFailed code s) (habort : op ≠ encode .abort) : StillFailed code t := by
  obtain ⟨hseq, herrc, hwork⟩ := h
  cases heffect with
  | instr i =>
    by_cases hdout : i = .dout
    · subst hdout
      rw [effect, popOut_of_empty (by simp [hwork, Working.empty])]
      exact ⟨hseq, herrc, hwork⟩
    · rw [effect_of_error hseq (fun hi => habort (congrArg encode hi)) hdout]
      exact ⟨hseq, herrc, hwork⟩
  | illegal v hv =>
    rw [illegalCommand, if_pos hseq]
    exact ⟨hseq, herrc, hwork⟩
  | read off hoff w => exact ⟨hseq, herrc, hwork⟩
  | write r v hcmd hdin => exact ⟨by simpa using hseq, by simpa using herrc, by simpa using hwork⟩
  | ignored off v hoff => exact ⟨hseq, herrc, hwork⟩

/-- Settles O18: the dispatch ignores every instruction but two, and nothing else writes the three fields. -/
theorem errorLastsUntilAbort : Obligations.ErrorLastsUntilAbort := by
  refine ⟨fun s i hseq habort hdout => exec_of_effect (effect_of_error hseq habort hdout),
    fun s _ hq => exec_dout_of_empty hq, fun s t e rest hseq hwork hq hstep hreset habort => ?_⟩
  have htake : takeEvent e { s with queue := rest } = .next t := by simpa only [step, hq] using hstep
  have hfailed : StillFailed s.errc { s with queue := rest } := ⟨hseq, rfl, hwork⟩
  obtain ⟨op, _, rfl, heffect⟩ | ⟨rfl, rfl⟩ | ⟨rfl, _⟩ := takeEvent_cases htake
  · refine stillFailed_busEffect heffect hfailed ?_
    rintro rfl
    exact habort 32 rfl
  · rw [engineStep_of_not_busy (by simp [hseq, SeqState.busy])]
    exact hfailed
  · contradiction

/-- R28, R311: what every step but a reset and a write to INT_STATUS keeps: the parameters, and a set interrupt bit. -/
structure Kept (s t : State) : Prop where
  params : t.params = s.params
  intDone : s.intDone = true → t.intDone = true
  intErr : s.intErr = true → t.intErr = true

section
variable {s t : State}

theorem kept_of_eq (hparams : t.params = s.params) (hdone : t.intDone = s.intDone) (herr : t.intErr = s.intErr) :
    Kept s t :=
  ⟨hparams, fun h => hdone.trans h, fun h => herr.trans h⟩

theorem kept_raise (c : ErrCode) (s : State) : Kept s (raise c s) := ⟨rfl, id, fun _ => rfl⟩

theorem kept_command {i : Instr} {body : State → State} (hbody : Kept s (body s)) : Kept s (command i body s) := by
  obtain ⟨_, heq⟩ | ⟨_, _, heq⟩ | ⟨_, _, heq⟩ := command_cases i body s <;> rw [heq]
  · exact kept_of_eq rfl rfl rfl
  · exact hbody
  · exact kept_raise _ s

theorem kept_encBegin (s : State) : Kept s (encBegin s) := by
  obtain ⟨_, heq⟩ | ⟨_, _, heq⟩ | ⟨_, _, _, _, heq⟩ | ⟨_, _, _, _, heq⟩ := encBegin_cases s <;> rw [heq]
  · exact kept_raise _ s
  · exact kept_raise _ s
  · exact kept_raise _ s
  · exact kept_of_eq (encLatch_params s) (encLatch_intDone s) (encLatch_intErr s)

theorem kept_encFinal (s : State) : Kept s (encFinal s) := by
  unfold encFinal
  split
  · exact kept_raise _ s
  · exact kept_of_eq rfl rfl rfl

theorem kept_decBegin (s : State) : Kept s (decBegin s) := by
  unfold decBegin
  split
  · exact kept_raise _ s
  · exact kept_of_eq rfl rfl rfl

theorem kept_rxEos (s : State) : Kept s (rxEos s) := by
  unfold rxEos
  split
  · exact kept_raise _ s
  · exact kept_of_eq rfl rfl rfl

theorem kept_dinWrite (b : Byte) (l : Bool) (s : State) : Kept s (dinWrite b l s) := by
  obtain ⟨_, _, heq⟩ | ⟨_, _, heq⟩ | ⟨_, _, heq⟩ | ⟨_, _, _, heq⟩ | ⟨_, _, _, _, heq⟩ | ⟨w, k, _, _, _, _, heq⟩ |
    ⟨_, heq⟩ | ⟨_, _, heq⟩ | ⟨_, _, heq⟩ | ⟨_, heq⟩ | ⟨_, heq⟩ := dinWrite_cases b l s <;> rw [heq]
  all_goals constructor <;> simp

theorem kept_popOut (s : State) : Kept s (popOut s) := by
  obtain ⟨_, heq⟩ | ⟨it, rest, _, _, heq⟩ | ⟨it, rest, _, _, heq⟩ := popOut_cases s <;> rw [heq] <;>
    exact kept_of_eq rfl rfl rfl

theorem kept_effect (i : Instr) (s : State) : Kept s (effect i s) := by
  cases i with
  | nop => exact kept_of_eq rfl rfl rfl
  | abort => exact kept_of_eq rfl rfl rfl
  | encBegin => exact kept_command (kept_encBegin s)
  | encFinal => exact kept_command (kept_encFinal s)
  | decBegin => exact kept_command (kept_decBegin s)
  | rxEos => exact kept_command (kept_rxEos s)
  | din b l x => exact kept_dinWrite b l s
  | dout =>
    obtain ⟨hparams, hdone, herr⟩ := kept_popOut s
    exact ⟨hparams, hdone, herr⟩

theorem kept_illegalCommand (s : State) : Kept s (illegalCommand s) := by
  obtain ⟨_, heq⟩ | ⟨_, heq⟩ := illegalCommand_cases s <;> rw [heq]
  · exact kept_of_eq rfl rfl rfl
  · exact kept_raise _ s

theorem kept_engineStep (s : State) : Kept s (engineStep s) := by
  obtain ⟨_, heq⟩ | ⟨_, heq⟩ | ⟨_, heq⟩ := engineStep_cases s <;> rw [heq]
  · exact ⟨rfl, fun _ => rfl, id⟩
  · obtain ⟨_, heq⟩ | ⟨_, _, heq⟩ | ⟨r, _, _, _, heq⟩ | ⟨r, _, _, _, heq⟩ := decComplete_cases s <;> rw [heq] <;>
      constructor <;> simp
  · exact kept_of_eq rfl rfl rfl

theorem kept_writeReg {r : Reg} (hr : r ≠ .intStatus) (v : Word) (s : State) : Kept s (writeReg r v s) := by
  obtain ⟨c, hc⟩ := exists_cfg_of_writeReg hr v s
  rw [hc]
  exact kept_of_eq rfl rfl rfl

theorem kept_busEffect {op : BusOp} (heffect : BusEffect s op t) (hop : ∀ v, op ≠ .write 0x18 v) : Kept s t := by
  cases heffect with
  | instr i => exact kept_effect i s
  | illegal v _ => exact kept_illegalCommand s
  | read off _ w => exact kept_of_eq rfl rfl rfl
  | write r v _ _ =>
    refine kept_writeReg ?_ v s
    rintro rfl
    exact hop v rfl
  | ignored off v _ => exact kept_of_eq rfl rfl rfl

end

/-- Settles O41: of the steps, a reset and a write to INT_STATUS alone can clear a bit. -/
theorem interruptBitsAreSticky : Obligations.InterruptBitsAreSticky := by
  intro s t hstep hwrite hreset
  obtain ⟨_, rfl⟩ | ⟨e, rest, hq, htake⟩ := step_cases hstep
  · obtain ⟨_, hdone, herr⟩ := kept_engineStep s
    exact ⟨hdone, herr⟩
  · have hkept : Kept { s with queue := rest } t := by
      obtain ⟨op, _, rfl, heffect⟩ | ⟨_, rfl⟩ | ⟨rfl, _⟩ := takeEvent_cases htake
      · refine kept_busEffect heffect fun v hop => ?_
        subst hop
        exact hwrite rest v 32 hq
      · exact kept_engineStep _
      · exact absurd hq (hreset rest)
    exact ⟨hkept.intDone, hkept.intErr⟩

/-- R8: no bus operation changes a parameter. -/
theorem params_of_busEffect {op : BusOp} {s t : State} (heffect : BusEffect s op t) : t.params = s.params := by
  cases heffect with
  | instr i => exact (kept_effect i s).params
  | illegal v _ => exact (kept_illegalCommand s).params
  | write r v _ _ => exact writeReg_params r v s
  | _ => rfl

theorem params_of_step {s t : State} (hstep : step s = .next t) : t.params = s.params :=
  step_keeps (P := fun u => u.params = s.params) (fun _ _ h => h) (fun u h => (kept_engineStep u).params.trans h)
    (fun _ h => h) (fun _ _ _ heffect h => (params_of_busEffect heffect).trans h) rfl hstep

end Sys2Proof.Proofs

/-! PROOFS. The registers (spec/10_state.md section 2): what each reads, what a write stores, and what does not depend
on the configuration (R267, R352) or on the key (R37). -/

namespace Sys2Proof.Proofs

open Sys2Proof Sys2Proof.Machine Sys2Proof.Laws Sys2Proof.Safety

/-- Settles O31: each of these registers is met by the register read or the register write. -/
theorem plainRegisterAccesses : Obligations.PlainRegisterAccesses := by
  refine ⟨fun s rest r hdout hq => ?_, fun s r v hr => ?_, fun s => ?_, fun s t => params_of_step⟩
  · have hlt := regOffset_lt r
    rw [step_read_eq_busOp (by omega) (regOffset_mod_four r) hq, busOp_read_register (regAt_offset r) hdout]
  · obtain rfl | rfl | rfl | rfl | rfl | rfl | rfl | rfl | ⟨k, rfl⟩ := hr <;>
      exact busOp_write_register (regAt_offset _) (by simp) (by simp) v s
  · exact ⟨busOp_read_register (r := .capacity) rfl (by decide) s, busOp_read_register (r := .cmd) rfl (by decide) s,
      busOp_read_register (r := .rxDim) rfl (by decide) s, busOp_read_register (r := .ptlen) rfl (by decide) s,
      busOp_read_register (r := .ctlen) rfl (by decide) s, busOp_read_register (r := .din) rfl (by decide) s⟩

/-! What does not depend on the configuration. -/

/-- R267, R352: an operation that neither reads nor writes the configuration. -/
def IgnoresCfg (f : State → State) : Prop :=
  ∀ (s : State) (c : ConfigRegs), f { s with cfg := c } = { f s with cfg := c }

theorem IgnoresCfg.cfg_eq {f : State → State} (hf : IgnoresCfg f) (s : State) : (f s).cfg = s.cfg := by
  have hcfg := congrArg State.cfg (hf s s.cfg)
  exact hcfg

theorem ignoresCfg_command (i : Instr) {body : State → State} (hbody : IgnoresCfg body) :
    IgnoresCfg (command i body) := by
  intro s c
  unfold command
  dsimp only
  split
  · rfl
  · split
    · exact hbody s c
    · rfl

theorem ignoresCfg_illegalCommand : IgnoresCfg illegalCommand := by
  intro s c
  unfold illegalCommand
  dsimp only
  split <;> rfl

theorem ignoresCfg_encFinal : IgnoresCfg encFinal := by
  intro s c
  unfold encFinal
  change (if s.work.pt.length ≠ npt s then _ else _) = _
  split <;> rfl

theorem ignoresCfg_rxEos : IgnoresCfg rxEos := by
  intro s c
  unfold rxEos
  dsimp only
  split <;> rfl

theorem ignoresCfg_dinPlaintext (b : Byte) : IgnoresCfg (dinPlaintext b) := by
  intro s c
  unfold dinPlaintext
  change (if s.work.pt.length = npt s then _ else _) = _
  split <;> rfl

theorem ignoresCfg_dinToken (b : Byte) (l : Bool) : IgnoresCfg (dinToken b l) := by
  intro s c
  unfold dinToken
  dsimp only
  split
  · rfl
  · split
    · split <;> rfl
    · rfl

theorem ignoresCfg_dinCiphertext (b : Byte) : IgnoresCfg (dinCiphertext b) := by
  intro s c
  unfold dinCiphertext
  dsimp only
  split <;> rfl

theorem ignoresCfg_dinWrite (b : Byte) (l : Bool) : IgnoresCfg (dinWrite b l) := by
  intro s c
  obtain ⟨q, hseq⟩ : ∃ q, s.seq = q := ⟨s.seq, rfl⟩
  cases q with
  | encIn => simpa only [dinWrite, hseq] using ignoresCfg_dinPlaintext b s c
  | decDims => simpa only [dinWrite, hseq] using ignoresCfg_dinToken b l s c
  | decCt => simpa only [dinWrite, hseq] using ignoresCfg_dinCiphertext b s c
  | decSum =>
    rw [dinWrite_of_decSum b l hseq, dinWrite_of_decSum (s := { s with cfg := c }) b l hseq]
    rfl
  | error => simp only [dinWrite, hseq]
  | _ =>
    simp only [dinWrite, hseq]
    rfl

theorem ignoresCfg_popOut : IgnoresCfg popOut := by
  intro s c
  unfold popOut
  dsimp only
  split
  · rfl
  · split <;> rfl

theorem ignoresCfg_effect {i : Instr} (henc : i ≠ .encBegin) (hdec : i ≠ .decBegin) : IgnoresCfg (effect i) := by
  cases i with
  | nop => exact fun _ _ => rfl
  | abort => exact fun _ _ => rfl
  | encBegin => contradiction
  | encFinal => exact ignoresCfg_command .encFinal ignoresCfg_encFinal
  | decBegin => contradiction
  | rxEos => exact ignoresCfg_command .rxEos ignoresCfg_rxEos
  | din b l x => exact ignoresCfg_dinWrite b l
  | dout =>
    intro s c
    rw [effect, effect, ignoresCfg_popOut s c]
    rfl

theorem ignoresCfg_decAccept (r : List Byte) : IgnoresCfg (decAccept r) := by
  intro s c
  unfold decAccept
  change (if r.length ≠ rxBytes s then _ else _) = _
  split <;> rfl

theorem ignoresCfg_decComplete : IgnoresCfg decComplete := by
  intro s c
  unfold decComplete
  dsimp only
  split
  · split
    · rfl
    · exact ignoresCfg_decAccept _ (storeDigest s) c
  · rfl

theorem ignoresCfg_engineStep : IgnoresCfg engineStep := by
  intro s c
  obtain ⟨q, hseq⟩ : ∃ q, s.seq = q := ⟨s.seq, rfl⟩
  cases q with
  | encProc =>
    simp only [engineStep, hseq]
    rfl
  | decProc => simpa only [engineStep, hseq] using ignoresCfg_decComplete s c
  | _ => simp only [engineStep, hseq]

/-- Settles O34: a register write leaves the rest of the state, and nothing but the BEGIN commands looks at what it
wrote. -/
theorem configurationIsLatchedAtBegin : Obligations.ConfigurationIsLatchedAtBegin := by
  refine ⟨fun s t r v hcmd hdin hint ht => ?_, fun s t c i henc hdec ht => ?_,
    fun s c => ⟨ignoresCfg_engineStep.cfg_eq s, ignoresCfg_engineStep s c⟩⟩
  · rw [busOp_write_register (regAt_offset r) hcmd hdin] at ht
    obtain ⟨c, hc⟩ := exists_cfg_of_writeReg hint v s
    cases ht
    rw [hc]
    exact ⟨rfl, ignoresCfg_engineStep s c⟩
  · have heffect := ignoresCfg_effect henc hdec
    rw [exec_eq_effect] at ht ⊢
    cases ht
    exact ⟨heffect.cfg_eq s, congrArg Host.Outcome.next (heffect s c)⟩

/-! The key cannot be read back. -/

/-- R37: no register reads a byte of KEYREG. -/
theorem readReg_setKeyreg (r : Reg) (s : State) (key : Vector Byte 32) :
    readReg r { s with cfg := { s.cfg with keyreg := key } } = readReg r s := by
  cases r <;> rfl

/-- The states that differ from `t` in KEYREG alone. -/
def SameButKey (t u : State) : Prop := u = { t with cfg := { t.cfg with keyreg := u.cfg.keyreg } }

theorem IgnoresCfg.sameButKey {f : State → State} (hf : IgnoresCfg f) (s : State) (key : Vector Byte 32) :
    SameButKey (f s) (f { s with cfg := { s.cfg with keyreg := key } }) := by
  unfold SameButKey
  rw [hf s, hf.cfg_eq s]

theorem sameButKey_writeReg (r : Reg) (v : Word) (s : State) (key : Vector Byte 32) :
    SameButKey (writeReg r v s) (writeReg r v { s with cfg := { s.cfg with keyreg := key } }) := by
  unfold writeReg
  split <;> rfl

/-- Settles O38: what an access does, by what it decodes to. -/
theorem keyCannotBeReadBack : Obligations.KeyCannotBeReadBack := by
  intro s key op t u henc hdec ht hu
  change SameButKey t u
  unfold busOp at ht hu
  cases hop : decode op with
  | ok i =>
    have hi : IgnoresCfg (effect i) :=
      ignoresCfg_effect (fun h => henc (h ▸ hop)) (fun h => hdec (h ▸ hop))
    simp only [hop, exec_eq_effect] at ht hu
    cases ht
    cases hu
    exact hi.sameButKey s key
  | error e =>
    cases e with
    | illegalCommand w =>
      simp only [hop] at ht hu
      cases ht
      cases hu
      exact ignoresCfg_illegalCommand.sameButKey s key
    | registerRead r =>
      simp only [hop, readReg_setKeyreg] at ht hu
      cases ht
      cases hu
      rfl
    | registerWrite r v =>
      simp only [hop] at ht hu
      cases ht
      cases hu
      exact sameButKey_writeReg r v s key
    | reservedRead =>
      simp only [hop] at ht hu
      cases ht
      cases hu
      rfl
    | reservedWrite =>
      simp only [hop] at ht hu
      cases ht
      cases hu
      rfl

/-! The lanes of the byte stores. -/

section
variable {n : Nat} (store : Vector Byte n) (v : Word)

theorem getD_of_lt {m : Nat} (h : m < n) : store[m]?.getD 0 = store[m] := by
  rw [Vector.getElem?_eq_getElem h, Option.getD_some]

/-- R74: what was written reads back. -/
theorem readLanes_writeLanes_same {k : Nat} (h : 4 * k + 3 < n) : readLanes (writeLanes store k v) k = v := by
  have hlane : ∀ j, j < 4 → (writeLanes store k v)[4 * k + j]?.getD 0 = lane v j := by
    intro j hj
    rw [getD_of_lt _ (by omega), writeLanes_getElem, if_pos (by omega), lane, show (4 * k + j) % 4 = j by omega]
  rw [readLanes, hlane 1 (by omega), hlane 2 (by omega), hlane 3 (by omega), ← ofLanes_lane v]
  simp only [ofLanes_lane]
  rw [show (writeLanes store k v)[4 * k]?.getD 0 = lane v 0 from hlane 0 (by omega), ofLanes_lane]

/-- R74: a register reads as before where another one was written. -/
theorem readLanes_writeLanes_ne {k m : Nat} (hne : m ≠ k) (h : 4 * m + 3 < n) :
    readLanes (writeLanes store k v) m = readLanes store m := by
  have hbyte : ∀ j, j < 4 → (writeLanes store k v)[4 * m + j]?.getD 0 = store[4 * m + j]?.getD 0 := by
    intro j hj
    rw [getD_of_lt _ (by omega), getD_of_lt _ (by omega), writeLanes_getElem, if_neg (by omega)]
  have hzero : (writeLanes store k v)[4 * m]?.getD 0 = store[4 * m]?.getD 0 := hbyte 0 (by omega)
  rw [readLanes, readLanes, hzero, hbyte 1 (by omega), hbyte 2 (by omega), hbyte 3 (by omega)]

/-- R74: lane j of a word of four lanes. -/
theorem lane_ofLanes (b : Fin 4 → Byte) (j : Fin 4) : lane (ofLanes (b 0) (b 1) (b 2) (b 3)) j.val = b j := by
  apply BitVec.eq_of_getLsbD_eq
  intro i hi
  rw [lane, BitVec.getLsbD_extractLsb', ofLanes_getLsbD]
  fin_cases j
  · simp [hi]
  · simp [hi]
  · have h : ¬ 16 + i < 8 := by omega
    have h' : ¬ 16 + i - 8 < 8 := by omega
    have h'' : 16 + i - 8 - 8 = i := by omega
    simp [hi, h, h', h'']
  · have h : ¬ 24 + i < 8 := by omega
    have h' : ¬ 24 + i - 8 < 8 := by omega
    have h'' : ¬ 24 + i - 8 - 8 < 8 := by omega
    have h''' : 24 + i - 8 - 8 - 8 = i := by omega
    simp [hi, h, h', h'', h''']

theorem lane_readLanes {k : Nat} (h : 4 * k + 3 < n) (j : Fin 4) :
    lane (readLanes store k) j.val = store[4 * k + j.val]'(by omega) := by
  rw [← getD_of_lt store]
  exact lane_ofLanes (fun j => store[4 * k + j.val]?.getD 0) j

end

/-- Settles O36: the IV registers are lanes of IVREG and the DIGEST registers lanes of DG. -/
theorem ivAndDigestRegistersHoldLanes : Obligations.IvAndDigestRegistersHoldLanes := by
  refine ⟨fun s k v => ⟨writeReg (.iv k) v s, writeLanes s.cfg.ivreg k.val v, ?_, rfl, ?_, ?_, ?_⟩, fun s k => ?_⟩
  · exact busOp_write_register (regAt_offset (.iv k)) (by simp) (by simp) v s
  · exact fun n h => writeLanes_getElem s.cfg.ivreg k.val v n h
  · refine (busOp_read_register (regAt_offset (.iv k)) (by simp) _).trans ?_
    rw [show readReg (.iv k) (writeReg (.iv k) v s) = v from readLanes_writeLanes_same _ v (by omega)]
  · intro m hm
    refine ⟨readReg (.iv m) s, busOp_read_register (regAt_offset (.iv m)) (by simp) _,
      (busOp_read_register (regAt_offset (.iv m)) (by simp) _).trans ?_⟩
    rw [show readReg (.iv m) (writeReg (.iv k) v s) = readReg (.iv m) s from
      readLanes_writeLanes_ne _ v (fun h => hm (Fin.ext h)) (by omega)]
  · exact ⟨readReg (.digest k) s, busOp_read_register (regAt_offset (.digest k)) (by simp) s,
      fun j => lane_readLanes s.res.dg (by omega) j⟩

/-- Settles O37: the KEY registers are lanes of KEYREG and read as 0. -/
theorem keyRegistersHoldLanes : Obligations.KeyRegistersHoldLanes := by
  refine fun s k v => ⟨⟨writeLanes s.cfg.keyreg k.val v, ?_, ?_⟩, ?_⟩
  · exact busOp_write_register (regAt_offset (.key k)) (by simp) (by simp) v s
  · exact fun n h => writeLanes_getElem s.cfg.keyreg k.val v n h
  · exact busOp_read_register (regAt_offset (.key k)) (by simp) s

/-! The fields of the registers that are bits. -/

theorem zero_append_ofBool (v : Word) : (0 : BitVec 31) ++ BitVec.ofBool (v.getLsbD 0) = v &&& 0x00000001 := by
  apply BitVec.eq_of_getLsbD_eq
  intro i hi
  rw [BitVec.getLsbD_append, BitVec.getLsbD_and]
  cases i with
  | zero => simp
  | succ i => simp

/-- R28, R29: two bits below 30 zeros. -/
theorem twoBits_getLsbD (hi lo : Bool) (i : Nat) :
    ((0 : BitVec 30) ++ BitVec.ofBool hi ++ BitVec.ofBool lo).getLsbD i =
      if i = 0 then lo else if i = 1 then hi else false := by
  rw [BitVec.getLsbD_append, BitVec.getLsbD_append]
  match i with
  | 0 => simp
  | 1 => simp
  | i + 2 => simp

theorem ofBool_append_ofBool (v : Word) :
    (0 : BitVec 30) ++ BitVec.ofBool (v.getLsbD 1) ++ BitVec.ofBool (v.getLsbD 0) = v &&& 0x00000003 := by
  apply BitVec.eq_of_getLsbD_eq
  intro i hi
  rw [twoBits_getLsbD, BitVec.getLsbD_and]
  match i with
  | 0 => simp
  | 1 => simp
  | i + 2 => simp [BitVec.getLsbD_ofNat, Nat.testBit_succ]

theorem zero_append_extractLsb' (v : Word) : (0 : BitVec 26) ++ v.extractLsb' 0 6 = v &&& 0x0000003F := by
  apply BitVec.eq_of_toNat_eq
  rw [BitVec.toNat_and, BitVec.toNat_append]
  refine Eq.trans ?_ (Nat.and_two_pow_sub_one_eq_mod v.toNat 6).symm
  simp

theorem extractLsb'_append_extractLsb' (v : Word) : v.extractLsb' 16 16 ++ v.extractLsb' 0 16 = v := by
  apply BitVec.eq_of_getLsbD_eq
  intro i hi
  rw [BitVec.getLsbD_append]
  split
  · simp [*]
  · rw [BitVec.getLsbD_extractLsb', show 16 + (i - 16) = i by omega]
    simp
    omega

/-- Settles O35: each write keeps the register's fields, and the read puts them back in their places. -/
theorem configurationReadsBack : Obligations.ConfigurationReadsBack := by
  refine fun s v => ⟨⟨_, busOp_write_register (r := .ctrl) rfl (by decide) (by decide) v s, rfl, ?_⟩,
    ⟨_, busOp_write_register (r := .intEnable) rfl (by decide) (by decide) v s, rfl, ?_⟩,
    ⟨_, busOp_write_register (r := .keylen) rfl (by decide) (by decide) v s, rfl, ?_⟩,
    ⟨_, busOp_write_register (r := .dim) rfl (by decide) (by decide) v s, rfl, ?_⟩⟩
  · rw [busOp_read_register (r := .ctrl) rfl (by decide), ← zero_append_ofBool]
    simp only [readReg, writeReg]
    cases s.params.hasTrng <;> simp
  · rw [busOp_read_register (r := .intEnable) rfl (by decide), ← ofBool_append_ofBool]
    rfl
  · rw [busOp_read_register (r := .keylen) rfl (by decide), ← zero_append_extractLsb']
    rfl
  · rw [busOp_read_register (r := .dim) rfl (by decide)]
    simp only [readReg, writeReg, extractLsb'_append_extractLsb']

/-- R27: the bits of STATUS. -/
theorem statusWord_getLsbD (s : State) (i : Nat) :
    (statusWord s).getLsbD i =
      if i < 4 then s.seq.code.getLsbD i
      else if i - 4 < 1 then (BitVec.ofBool s.seq.busy).getLsbD (i - 4)
      else if i - 4 - 1 < 1 then (BitVec.ofBool s.seq.inReady).getLsbD (i - 4 - 1)
      else if i - 4 - 1 - 1 < 1 then (BitVec.ofBool (outValid s)).getLsbD (i - 4 - 1 - 1)
      else if i - 4 - 1 - 1 - 1 < 1 then false
      else if i - 4 - 1 - 1 - 1 - 1 < 4 then s.errc.code.getLsbD (i - 4 - 1 - 1 - 1 - 1)
      else false := by
  simp only [statusWord, BitVec.getLsbD_append]
  simp

theorem busy_iff (q : SeqState) : q.busy = true ↔ q = .encProc ∨ q = .decProc := by
  cases q <;> simp [SeqState.busy]

theorem inReady_iff (q : SeqState) :
    q.inReady = true ↔ q = .encIn ∨ q = .decDims ∨ q = .decSum ∨ q = .decCt := by
  cases q <;> simp [SeqState.inReady]

/-- Settles O39: STATUS is the concatenation of its fields. -/
theorem statusFields : Obligations.StatusFields := by
  intro s
  change (statusWord s).extractLsb' 0 4 = _ ∧ ((statusWord s).getLsbD 4 = true ↔ _) ∧
    ((statusWord s).getLsbD 5 = true ↔ _) ∧ ((statusWord s).getLsbD 6 = true ↔ _) ∧ (statusWord s).getLsbD 7 = false ∧
    (statusWord s).extractLsb' 8 4 = _ ∧ (statusWord s).extractLsb' 12 20 = 0
  refine ⟨?_, ?_, ?_, ?_, ?_, ?_, ?_⟩
  · apply BitVec.eq_of_getLsbD_eq
    intro i hi
    rw [BitVec.getLsbD_extractLsb', statusWord_getLsbD, if_pos (by omega)]
    simp [hi]
  · rw [statusWord_getLsbD, ← busy_iff]
    simp
  · rw [statusWord_getLsbD, ← inReady_iff]
    simp
  · rw [statusWord_getLsbD]
    simp [outValid]
  · rw [statusWord_getLsbD]
    simp
  · apply BitVec.eq_of_getLsbD_eq
    intro i hi
    rw [BitVec.getLsbD_extractLsb', statusWord_getLsbD, if_neg (by omega), if_neg (by omega), if_neg (by omega),
      if_neg (by omega), if_neg (by omega), if_pos (by omega), show 8 + i - 4 - 1 - 1 - 1 - 1 = i by omega]
    simp [hi]
  · apply BitVec.eq_of_getLsbD_eq
    intro i hi
    rw [BitVec.getLsbD_extractLsb', statusWord_getLsbD, if_neg (by omega), if_neg (by omega), if_neg (by omega),
      if_neg (by omega), if_neg (by omega), if_neg (by omega)]
    simp

/-- Settles O40: the write clears by conjunction, and the word has two bits. -/
theorem intStatusIsWriteOneToClear : Obligations.IntStatusIsWriteOneToClear := by
  intro s v
  have hbits : ∀ i, (readReg .intStatus s).getLsbD i = _ := twoBits_getLsbD s.intErr s.intDone
  refine ⟨?_, hbits 0, hbits 1, ?_⟩
  · rw [busOp_write_register (r := .intStatus) rfl (by decide) (by decide)]
    simp only [writeReg, clearIntStatus]
    cases v.getLsbD 0 <;> cases v.getLsbD 1 <;> simp
  · apply BitVec.eq_of_getLsbD_eq
    intro i hi
    rw [BitVec.getLsbD_extractLsb', hbits]
    simp
    omega

/-- Settles O42: `irq` is made of the bits the two registers show. -/
theorem interruptOutput : Obligations.InterruptOutput := by
  intro s
  have hstatus : ∀ i, (readReg .intStatus s).getLsbD i = _ := twoBits_getLsbD s.intErr s.intDone
  have henable : ∀ i, (readReg .intEnable s).getLsbD i = _ := twoBits_getLsbD s.cfg.errEn s.cfg.doneEn
  rw [hstatus, hstatus, henable, henable]
  simp [irq]

end Sys2Proof.Proofs

/-! PROOFS. The AES rounds and the key schedule (spec/40_aes.md R137 to R142). MixColumns and
its inverse are matrices whose product is the unit matrix; a cipher is undone round by round. -/

namespace Sys2Proof.Proofs

open Sys2Proof Sys2Proof.Machine Sys2Proof.Laws

theorem xtimes_xor (i : Nat) (a b : Byte) : xtimes i (a ^^^ b) = xtimes i a ^^^ xtimes i b := by
  induction i with
  | zero => rfl
  | succ i ih => rw [xtimes, ih, xtime_xor, ← xtimes, ← xtimes]

/-- The sum over the selected bits is additive in what is summed. -/
theorem xorSelected_fun_xor (c : Byte) (f g : Nat → Byte) (l : List Nat) (u v : Byte) :
    xorSelected c (fun i => f i ^^^ g i) (u ^^^ v) l = xorSelected c f u l ^^^ xorSelected c g v l := by
  induction l generalizing u v with
  | nil => rfl
  | cons i l ih =>
    have hterm : (if c.getLsbD i then f i ^^^ g i else 0) =
        (if c.getLsbD i then f i else 0) ^^^ (if c.getLsbD i then g i else 0) := by
      split <;> simp
    rw [xorSelected_cons, hterm, xor_xor_xor_comm, ih, ← xorSelected_cons, ← xorSelected_cons]

/-- R132: • distributes over ⊕ on the other side too. -/
theorem xor_gmul (a b c : Byte) : gmul (a ^^^ b) c = gmul a c ^^^ gmul b c := by
  simp only [gmul_eq_xorSelected, xtimes_xor]
  exact xorSelected_fun_xor c _ _ _ 0 0

/-- R138: one row of a matrix of bytes, applied to a column. -/
def row (c a : Column) : Byte := gmul c.r0 a.r0 ^^^ gmul c.r1 a.r1 ^^^ gmul c.r2 a.r2 ^^^ gmul c.r3 a.r3

/-- R138: the product of a row with a matrix. -/
theorem row_row (c d0 d1 d2 d3 a : Column) :
    row c ⟨row d0 a, row d1 a, row d2 a, row d3 a⟩ =
      row ⟨row c ⟨d0.r0, d1.r0, d2.r0, d3.r0⟩, row c ⟨d0.r1, d1.r1, d2.r1, d3.r1⟩,
        row c ⟨d0.r2, d1.r2, d2.r2, d3.r2⟩, row c ⟨d0.r3, d1.r3, d2.r3, d3.r3⟩⟩ a := by
  simp only [row, gmul_xor, xor_gmul, gmul_assoc]
  ac_rfl

theorem mixColumn_eq_rows (a : Column) :
    mixColumn a = ⟨row ⟨2, 3, 1, 1⟩ a, row ⟨1, 2, 3, 1⟩ a, row ⟨1, 1, 2, 3⟩ a, row ⟨3, 1, 1, 2⟩ a⟩ := by
  simp only [mixColumn, row, one_gmul]

theorem invMixColumn_eq_rows (a : Column) :
    invMixColumn a = ⟨row ⟨0x0e, 0x0b, 0x0d, 0x09⟩ a, row ⟨0x09, 0x0e, 0x0b, 0x0d⟩ a,
      row ⟨0x0d, 0x09, 0x0e, 0x0b⟩ a, row ⟨0x0b, 0x0d, 0x09, 0x0e⟩ a⟩ := rfl

theorem zero_gmul (a : Byte) : gmul 0 a = 0 := by
  simpa using xor_gmul 0 0 a

/-- R138: the rows of the unit matrix. -/
theorem rows_unit (a : Column) :
    (⟨row ⟨1, 0, 0, 0⟩ a, row ⟨0, 1, 0, 0⟩ a, row ⟨0, 0, 1, 0⟩ a, row ⟨0, 0, 0, 1⟩ a⟩ : Column) = a := by
  simp only [row, one_gmul, zero_gmul]
  simp

/-- R138: InvMixColumns undoes MixColumns, since the product of the two matrices is the unit matrix. -/
theorem invMixColumn_mixColumn (a : Column) : invMixColumn (mixColumn a) = a := by
  rw [invMixColumn_eq_rows, mixColumn_eq_rows, row_row, row_row, row_row, row_row]
  exact rows_unit a

/-- R138: MixColumns undoes InvMixColumns. -/
theorem mixColumn_invMixColumn (a : Column) : mixColumn (invMixColumn a) = a := by
  rw [mixColumn_eq_rows, invMixColumn_eq_rows, row_row, row_row, row_row, row_row]
  exact rows_unit a

theorem invMixColumns_mixColumns (s : Block) : invMixColumns (mixColumns s) = s := by
  simp [invMixColumns, mixColumns, Block.map, invMixColumn_mixColumn]

theorem mixColumns_invMixColumns (s : Block) : mixColumns (invMixColumns s) = s := by
  simp [invMixColumns, mixColumns, Block.map, mixColumn_invMixColumn]

theorem invSubBytes_subBytes (s : Block) : invSubBytes (subBytes s) = s := by
  simp [invSubBytes, subBytes, Block.map, Column.map, invSbox_sbox]

theorem subBytes_invSubBytes (s : Block) : subBytes (invSubBytes s) = s := by
  simp [invSubBytes, subBytes, Block.map, Column.map, sbox_invSbox]

/-- R139: AddRoundKey undoes itself. -/
theorem addRoundKey_cancel (s : Block) (w : List Column) (rnd : Nat) : addRoundKey (addRoundKey s w rnd) w rnd = s :=
  block_xor_cancel s (roundKey w rnd)

/-- R141: the part of a round before the columns are mixed, and its inverse. -/
def subShift (s : Block) : Block := shiftRows (subBytes s)

def invSubShift (s : Block) : Block := invSubBytes (invShiftRows s)

theorem invSubShift_subShift (s : Block) : invSubShift (subShift s) = s := by
  rw [invSubShift, subShift, invShiftRows_shiftRows, invSubBytes_subBytes]

theorem subShift_invSubShift (s : Block) : subShift (invSubShift s) = s := by
  rw [invSubShift, subShift, subBytes_invSubBytes, shiftRows_invShiftRows]

/-- R141: a middle round of AES_Enc. -/
def encRound (w : List Column) (s : Block) (rnd : Nat) : Block := addRoundKey (mixColumns (subShift s)) w rnd

/-- R142: a middle round of AES_Dec. -/
def decRound (w : List Column) (s : Block) (rnd : Nat) : Block := invMixColumns (addRoundKey (invSubShift s) w rnd)

theorem aesEnc_eq (w : List Column) (x : Block) : aesEnc w x =
    addRoundKey (subShift ((List.range' 1 (scheduleNr w - 1)).foldl (encRound w) (addRoundKey x w 0))) w
      (scheduleNr w) := rfl

theorem aesDec_eq (w : List Column) (y : Block) : aesDec w y =
    addRoundKey (invSubShift ((List.range' 1 (scheduleNr w - 1)).reverse.foldl (decRound w)
      (addRoundKey y w (scheduleNr w)))) w 0 := rfl

theorem decRound_subShift_encRound (w : List Column) (s : Block) (rnd : Nat) :
    decRound w (subShift (encRound w s rnd)) rnd = subShift s := by
  rw [decRound, invSubShift_subShift, encRound, addRoundKey_cancel, invMixColumns_mixColumns]

theorem encRound_invSubShift_decRound (w : List Column) (s : Block) (rnd : Nat) :
    encRound w (invSubShift (decRound w s rnd)) rnd = invSubShift s := by
  rw [encRound, subShift_invSubShift, decRound, mixColumns_invMixColumns, addRoundKey_cancel]

/-- Rounds that are undone one by one are undone in reverse order. -/
theorem foldl_reverse_undo {α β : Type} {f g : α → β → α} {p : α → α} (h : ∀ s r, g (p (f s r)) r = p s)
    (l : List β) (s : α) : l.reverse.foldl g (p (l.foldl f s)) = p s := by
  induction l generalizing s with
  | nil => rfl
  | cons r l ih => rw [List.foldl_cons, List.reverse_cons, List.foldl_append, ih, List.foldl_cons, List.foldl_nil, h]

/-- R142: decryption undoes encryption. -/
theorem aesDec_aesEnc (w : List Column) (x : Block) : aesDec w (aesEnc w x) = x := by
  rw [aesEnc_eq, aesDec_eq, addRoundKey_cancel, foldl_reverse_undo (decRound_subShift_encRound w),
    invSubShift_subShift, addRoundKey_cancel]

theorem aesEnc_aesDec (w : List Column) (y : Block) : aesEnc w (aesDec w y) = y := by
  have hrounds := foldl_reverse_undo (encRound_invSubShift_decRound w) (List.range' 1 (scheduleNr w - 1)).reverse
  simp only [List.reverse_reverse] at hrounds
  rw [aesDec_eq, aesEnc_eq, addRoundKey_cancel, hrounds, subShift_invSubShift, addRoundKey_cancel]

/-- Settles O48: each round undoes its counterpart, for every schedule. -/
theorem aesDecUndoesEnc : Obligations.AesDecUndoesEnc :=
  fun w x => ⟨aesDec_aesEnc w x, aesEnc_aesDec w x⟩

/-! The key schedule. -/

/-- R140: the schedule grows at its end, a word for each step. -/
theorem extendSchedule_eq_append (nk n : Nat) (w : List Column) :
    ∃ more, extendSchedule nk n w = w ++ more ∧ more.length = n := by
  induction n generalizing w with
  | zero => exact ⟨[], (List.append_nil w).symm, rfl⟩
  | succ n ih =>
    obtain ⟨more, heq, hlen⟩ := ih (w ++ [scheduleWord nk w])
    exact ⟨scheduleWord nk w :: more, by rw [extendSchedule, heq, List.append_assoc, List.singleton_append],
      by rw [List.length_cons, hlen]⟩

theorem extendSchedule_length (nk n : Nat) (w : List Column) : (extendSchedule nk n w).length = w.length + n := by
  obtain ⟨more, heq, hlen⟩ := extendSchedule_eq_append nk n w
  rw [heq, List.length_append, hlen]

theorem extendSchedule_getD_of_lt (nk n : Nat) {w : List Column} {i : Nat} (hi : i < w.length) (d : Column) :
    (extendSchedule nk n w).getD i d = w.getD i d := by
  obtain ⟨more, heq, _⟩ := extendSchedule_eq_append nk n w
  rw [heq, List.getD_append _ _ _ _ hi]

/-- R140: each added word follows from the words before it. -/
theorem extendSchedule_getD (nk n : Nat) (w : List Column) {i : Nat} (hge : w.length ≤ i) (hlt : i < w.length + n)
    (d : Column) : (extendSchedule nk n w).getD i d = scheduleWord nk ((extendSchedule nk n w).take i) := by
  induction n generalizing w with
  | zero => omega
  | succ n ih =>
    rw [extendSchedule]
    have hlen : (w ++ [scheduleWord nk w]).length = w.length + 1 := by simp
    by_cases hi : i = w.length
    · subst hi
      obtain ⟨more, heq, _⟩ := extendSchedule_eq_append nk n (w ++ [scheduleWord nk w])
      rw [heq, List.append_assoc, List.take_left, List.getD_append_right _ _ _ _ (Nat.le_refl _), Nat.sub_self]
      rfl
    · exact ih _ (by omega) (by omega)

theorem keyWords_length (n : Nat) (k : List Byte) : (keyWords n k).length = n := by
  induction n generalizing k with
  | zero => rfl
  | succ n ih => rw [keyWords, List.length_cons, ih]

/-- R140: the first words are the key's bytes. -/
theorem keyWords_getD {n i : Nat} (hi : i < n) (k : List Byte) (d : Column) :
    (keyWords n k).getD i d =
      ⟨k.getD (4 * i) 0, k.getD (4 * i + 1) 0, k.getD (4 * i + 2) 0, k.getD (4 * i + 3) 0⟩ := by
  induction n generalizing k i with
  | zero => omega
  | succ n ih =>
    cases i with
    | zero => rfl
    | succ i =>
      have hdrop : ∀ j, (k.drop 4).getD j 0 = k.getD (4 + j) 0 := by
        intro j
        simp [List.getD_eq_getElem?_getD]
      rw [keyWords, List.getD_cons_succ, ih (by omega)]
      simp only [hdrop, Nat.mul_add, Nat.mul_one, Nat.add_comm, Nat.add_left_comm]

/-- R140: the round constants are powers of xtime. -/
theorem rcon_eq_xtimes : ∀ j < 11, 1 ≤ j → rcon j = xtimes (j - 1) 0x01 := by decide

theorem take_getD {w : List Column} {i j : Nat} (hj : j < i) (d : Column) : (w.take i).getD j d = w.getD j d := by
  simp [List.getD_eq_getElem?_getD, hj]

/-- R140: the rule of a schedule word, in terms of the whole schedule. -/
theorem scheduleWord_take {nk i : Nat} {w : List Column} (hnk : 0 < nk) (hge : nk ≤ i) (hlt : i < w.length)
    (hround : i / nk < 11) : ∃ t, scheduleWord nk (w.take i) = (w.getD (i - nk) Column.zero).xor t ∧
      t = (if i % nk = 0 then
            (subWord (rotWord (w.getD (i - 1) Column.zero))).xor ⟨xtimes (i / nk - 1) 0x01, 0, 0, 0⟩
          else if nk = 8 ∧ i % 8 = 4 then subWord (w.getD (i - 1) Column.zero)
          else w.getD (i - 1) Column.zero) := by
  have hlen : (w.take i).length = i := by rw [List.length_take]; omega
  have hrcon := rcon_eq_xtimes (i / nk) hround (Nat.div_pos hge hnk)
  have hmod : (nk = 8 ∧ i % nk = 4) = (nk = 8 ∧ i % 8 = 4) := by
    by_cases h8 : nk = 8 <;> simp [h8]
  refine ⟨_, ?_, rfl⟩
  simp only [scheduleWord, hlen, take_getD (show i - 1 < i by omega), take_getD (show i - nk < i by omega), hrcon, hmod]

theorem keyExpansion_length {k : List Byte} : (keyExpansion k).length = 4 * (k.length / 4 + 6 + 1) := by
  rw [keyExpansion, extendSchedule_length, keyWords_length, keyNr, keyNk]
  omega

/-- Settles O49: the schedule is the key's words, extended by the rule. -/
theorem keyScheduleFollowsItsRule : Obligations.KeyScheduleFollowsItsRule := by
  intro k hk
  refine ⟨keyExpansion_length, fun i r hi hr => ?_, fun i hge hlt => ?_⟩
  · rw [keyExpansion, extendSchedule_getD_of_lt _ _ (by rw [keyWords_length]; exact hi), keyNk, keyWords_getD hi]
    interval_cases r <;> rfl
  · have hword : (keyExpansion k).getD i Column.zero = scheduleWord (k.length / 4) ((keyExpansion k).take i) :=
      extendSchedule_getD _ _ _ (by rw [keyWords_length]; exact hge) (by rw [keyWords_length, keyNr, keyNk]; omega) _
    have hround : i / (k.length / 4) < 11 := by
      obtain hk | hk | hk := hk <;> rw [hk] at hlt ⊢ <;> omega
    rw [hword]
    exact scheduleWord_take (by omega) hge (by rw [keyExpansion_length]; exact hlt) hround

end Sys2Proof.Proofs

/-! PROOFS. Cipher-block chaining (spec/41_cbc_pkcs7.md R173 to R177): decryption undoes encryption block by block. -/

namespace Sys2Proof.Proofs

open Sys2Proof Sys2Proof.Machine Sys2Proof.Laws

theorem toBytes_length (b : Block) : b.toBytes.length = 16 := rfl

theorem blocksToBytes_cons (b : Block) (bs : List Block) :
    blocksToBytes (b :: bs) = b.toBytes ++ blocksToBytes bs := by
  simp [blocksToBytes]

/-- R131: blocks go out and come in as the same blocks. -/
theorem blocksOf_blocksToBytes (bs : List Block) : blocksOf bs.length (blocksToBytes bs) = bs := by
  induction bs with
  | nil => rfl
  | cons b bs ih =>
    rw [List.length_cons, blocksOf, blocksToBytes_cons, List.take_left' (toBytes_length b),
      List.drop_left' (toBytes_length b), blockOf_toBytes, ih]

/-- R131: whole blocks of bytes come in and go out as the same bytes. -/
theorem blocksToBytes_blocksOf (m : Nat) {x : List Byte} (hx : x.length = 16 * m) :
    blocksToBytes (blocksOf m x) = x := by
  induction m generalizing x with
  | zero => exact (List.length_eq_zero_iff.1 hx).symm
  | succ m ih =>
    rw [blocksOf, blocksToBytes_cons, toBytes_blockOf _ (by rw [List.length_take]; omega),
      ih (by rw [List.length_drop]; omega), List.take_append_drop]

/-- R173, R174: each block is deciphered and freed of the ciphertext block before it. -/
theorem cbcDecBlocks_cbcEncBlocks (w : List Column) (prev : Block) (xs : List Block) :
    cbcDecBlocks w prev (cbcEncBlocks w prev xs) = xs := by
  induction xs generalizing prev with
  | nil => rfl
  | cons x xs ih => rw [cbcEncBlocks, cbcDecBlocks, aesDec_aesEnc, block_xor_cancel, ih]

theorem cbcDec_cbcEnc (w : List Column) (iv : List Byte) {x : List Byte} (hx : x.length % 16 = 0) :
    cbcDec w iv (cbcEnc w iv x) = x := by
  have hblocks := blocksOf_blocksToBytes (cbcEncBlocks w (blockOf iv) (blocksOf (x.length / 16) x))
  rw [cbcEncBlocks_length, blocksOf_length] at hblocks
  rw [cbcDec, cbcEnc_length, Nat.mul_div_cancel_left _ (by decide), cbcEnc, hblocks, cbcDecBlocks_cbcEncBlocks,
    blocksToBytes_blocksOf _ (by omega)]

/-- Settles O52: the chain is undone block by block, whatever the schedule. -/
theorem cbcDecUndoesEnc : Obligations.CbcDecUndoesEnc :=
  fun w iv _ _ hx => cbcDec_cbcEnc w iv hx

/-- R177: the length checks pass, the IV is the first block, and the padding comes off. -/
theorem decrypt_encrypt (k p : List Byte) {iv : List Byte} (hiv : iv.length = 16) :
    decrypt k (encrypt k iv p) = some p := by
  have hlen : ¬ ((encrypt k iv p).length < 32 ∨ (encrypt k iv p).length % 16 ≠ 0) := by
    rw [encrypt_length k p hiv, ciphertextLen]
    omega
  rw [decrypt, if_neg hlen, encrypt, List.take_left' hiv, List.drop_left' hiv,
    cbcDec_cbcEnc _ _ (by rw [pad_length]; omega), unpadUndoesPad]

/-- Settles O54: the law needs no more of the key than R177 says. -/
theorem decryptUndoesEncrypt : Obligations.DecryptUndoesEncrypt :=
  fun k _ p _ hiv => decrypt_encrypt k p hiv

end Sys2Proof.Proofs

/-! PROOFS. The digest's padding and text (spec/42_digest.md R191, R200 to R202), the dimensions token and the
serializer (spec/43_frame.md R211 to R217). -/

namespace Sys2Proof.Proofs

open Sys2Proof Sys2Proof.Machine Sys2Proof.Laws

/-- R191: byte j of the length field. -/
theorem extractLsb'_ofNat_byte (n j : Nat) :
    (BitVec.ofNat 64 n).extractLsb' (8 * j) 8 = BitVec.ofNat 8 (n % 2 ^ 64 / 256 ^ j) := by
  apply BitVec.eq_of_toNat_eq
  rw [BitVec.extractLsb'_toNat, BitVec.toNat_ofNat, BitVec.toNat_ofNat, Nat.shiftRight_eq_div_pow, Nat.pow_mul]

theorem leBytes_length {m : Nat} (n : Nat) (v : BitVec m) : (leBytes n v).length = n := by
  simp [leBytes]

theorem md5Pad_length (m : List Byte) : (md5Pad m).length = m.length + 1 + md5ZeroBytes m.length + 8 := by
  simp only [md5Pad, List.length_append, List.length_replicate, leBytes_length, List.length_singleton]

/-- Settles O55: the form is the definition's, and the counts are arithmetic modulo 64. -/
theorem digestPadding : Obligations.DigestPadding := by
  intro m
  refine ⟨?_, ?_, ?_, ?_, ?_, fun k hk => ?_⟩
  · rw [md5Pad, leBytes]
    simp only [extractLsb'_ofNat_byte]
  · rw [md5Pad_length, md5ZeroBytes]
    omega
  · exact ⟨_, by rw [md5Pad, List.append_assoc, List.append_assoc]⟩
  all_goals
    unfold md5ZeroBytes
    omega

/-! The checksum text. -/

theorem hexText_cons (b : Byte) (d : List Byte) :
    hexText (b :: d) = hexChar (b.toNat / 16) :: hexChar (b.toNat % 16) :: hexText d := by
  simp [hexText]

/-- R200: the sixteen digits. -/
theorem hexChar_eq_getD : ∀ v < 16, hexChar v =
    [(0x30 : Byte), 0x31, 0x32, 0x33, 0x34, 0x35, 0x36, 0x37, 0x38, 0x39, 0x61, 0x62, 0x63, 0x64, 0x65,
      0x66].getD v 0 := by decide

theorem hexChar_range : ∀ v < 16, (0x30 ≤ (hexChar v).toNat ∧ (hexChar v).toNat ≤ 0x39) ∨
    (0x61 ≤ (hexChar v).toNat ∧ (hexChar v).toNat ≤ 0x66) := by decide

theorem hexChar_injective : ∀ v < 16, ∀ w < 16, hexChar v = hexChar w → v = w := by decide

theorem toNat_div_lt (b : Byte) : b.toNat / 16 < 16 := by
  have := b.isLt
  omega

theorem toNat_mod_lt (b : Byte) : b.toNat % 16 < 16 := Nat.mod_lt _ (by decide)

theorem hexText_length (d : List Byte) : (hexText d).length = 2 * d.length := by
  induction d with
  | nil => rfl
  | cons b d ih =>
    rw [hexText_cons, List.length_cons, List.length_cons, List.length_cons, ih]
    omega

theorem hexText_range (d : List Byte) : ∀ c ∈ hexText d, (0x30 ≤ c.toNat ∧ c.toNat ≤ 0x39) ∨
    (0x61 ≤ c.toNat ∧ c.toNat ≤ 0x66) := by
  induction d with
  | nil => simp [hexText]
  | cons b d ih =>
    intro c hc
    rw [hexText_cons, List.mem_cons, List.mem_cons] at hc
    obtain rfl | rfl | hc := hc
    · exact hexChar_range _ (toNat_div_lt b)
    · exact hexChar_range _ (toNat_mod_lt b)
    · exact ih c hc

/-- R202: the bytes can be read back from their text. -/
theorem hexText_injective {d e : List Byte} (h : hexText d = hexText e) : d = e := by
  induction d generalizing e with
  | nil =>
    have hlen := congrArg List.length h
    rw [hexText_length, hexText_length, List.length_nil] at hlen
    exact (List.length_eq_zero_iff.1 (by omega)).symm
  | cons b d ih =>
    cases e with
    | nil => simp [hexText] at h
    | cons c e =>
      rw [hexText_cons, hexText_cons, List.cons.injEq, List.cons.injEq] at h
      obtain ⟨hhigh, hlow, hrest⟩ := h
      have hdiv := hexChar_injective _ (toNat_div_lt b) _ (toNat_div_lt c) hhigh
      have hmod := hexChar_injective _ (toNat_mod_lt b) _ (toNat_mod_lt c) hlow
      have hbc : b = c := BitVec.eq_of_toNat_eq (by omega)
      rw [hbc, ih hrest]

/-- Settles O56: digit by digit, and back. -/
theorem checksumText_correct : Obligations.ChecksumText := by
  refine ⟨⟨rfl, fun b d digits hdigits => ?_⟩, fun d => ⟨hexText_length d, hexText_range d⟩,
    fun d e => hexText_injective, verify_iff⟩
  rw [hexText_cons, hexChar_eq_getD _ (toNat_div_lt b), hexChar_eq_getD _ (toNat_mod_lt b), hdigits]

theorem checksumText_length (c : List Byte) : (checksumText c).length = 32 := by
  simp [checksumText, hexText_length]

/-! Decimal text. -/

/-- Enough fuel is enough. -/
theorem decDigits_fuel {fuel fuel' v : Nat} (h : v < fuel) (h' : v < fuel') : decDigits fuel v = decDigits fuel' v := by
  induction fuel generalizing fuel' v with
  | zero => omega
  | succ fuel ih =>
    cases fuel' with
    | zero => omega
    | succ fuel' =>
      unfold decDigits
      split
      · rfl
      · rw [ih (v := v / 10) (fuel' := fuel') (by omega) (by omega)]

/-- R211: the text of a digit, and of a number of more than one digit. -/
theorem decText_of_lt {v : Nat} (h : v < 10) : decText v = [BitVec.ofNat 8 (0x30 + v)] := by
  rw [decText, decDigits, if_pos h]

theorem decText_of_ge {v : Nat} (h : 10 ≤ v) :
    decText v = decText (v / 10) ++ [BitVec.ofNat 8 (0x30 + v % 10)] := by
  rw [decText, decDigits, if_neg (by omega), decText, decDigits_fuel (fuel' := v / 10 + 1) (by omega) (by omega)]

theorem digit_toNat {n : Nat} (h : n < 10) : (BitVec.ofNat 8 (0x30 + n)).toNat = 0x30 + n := by
  rw [BitVec.toNat_ofNat, Nat.mod_eq_of_lt (by omega)]

theorem isDigit_iff (b : Byte) : isDigit b = true ↔ 0x30 ≤ b.toNat ∧ b.toNat ≤ 0x39 := by
  simp [isDigit]

theorem isDigit_digit {n : Nat} (h : n < 10) : isDigit (BitVec.ofNat 8 (0x30 + n)) = true := by
  rw [isDigit_iff, digit_toNat h]
  omega

/-- R214: the value of a text with one more digit. -/
theorem decVal_append_singleton (f : List Byte) (b : Byte) : decVal (f ++ [b]) = 10 * decVal f + (b.toNat - 0x30) := by
  simp [decVal, List.foldl_append]

theorem decText_ne_nil (v : Nat) : decText v ≠ [] := by
  by_cases h : v < 10
  · simp [decText_of_lt h]
  · simp [decText_of_ge (Nat.le_of_not_lt h)]

theorem decVal_decText (v : Nat) : decVal (decText v) = v := by
  induction v using Nat.strong_induction_on with
  | _ v ih =>
    by_cases h : v < 10
    · rw [decText_of_lt h, ← List.nil_append [BitVec.ofNat 8 (0x30 + v)], decVal_append_singleton, digit_toNat h]
      simp [decVal]
    · rw [decText_of_ge (Nat.le_of_not_lt h), decVal_append_singleton, ih (v / 10) (by omega),
        digit_toNat (Nat.mod_lt v (by decide))]
      omega

theorem decText_isDigit (v : Nat) : ∀ b ∈ decText v, isDigit b = true := by
  induction v using Nat.strong_induction_on with
  | _ v ih =>
    intro b hb
    by_cases h : v < 10
    · rw [decText_of_lt h, List.mem_singleton] at hb
      exact hb ▸ isDigit_digit h
    · rw [decText_of_ge (Nat.le_of_not_lt h), List.mem_append, List.mem_singleton] at hb
      obtain hb | rfl := hb
      · exact ih (v / 10) (by omega) b hb
      · exact isDigit_digit (Nat.mod_lt v (by decide))

/-- R212: no leading zero. -/
theorem decText_head {v : Nat} (hpos : 1 ≤ v) : (decText v).getD 0 0 ≠ 0x30 := by
  induction v using Nat.strong_induction_on with
  | _ v ih =>
    by_cases h : v < 10
    · intro hzero
      have hnat := congrArg BitVec.toNat hzero
      rw [decText_of_lt h, List.getD_cons_zero, digit_toNat h] at hnat
      simp at hnat
      omega
    · rw [decText_of_ge (Nat.le_of_not_lt h),
        List.getD_append _ _ _ _ (List.length_pos_iff.2 (decText_ne_nil (v / 10)))]
      exact ih (v / 10) (by omega) (by omega)

theorem decText_length_le {k v : Nat} (hk : 1 ≤ k) (h : v < 10 ^ k) : (decText v).length ≤ k := by
  induction k, hk using Nat.le_induction generalizing v with
  | base => simp [decText_of_lt (v := v) (by simpa using h)]
  | succ k hk ih =>
    by_cases hlt : v < 10
    · simp [decText_of_lt hlt]
    · rw [decText_of_ge (Nat.le_of_not_lt hlt), List.length_append, List.length_singleton]
      rw [Nat.pow_succ] at h
      exact Nat.succ_le_succ (ih (by omega))

/-- R212: the value of a text that starts with no zero is positive. -/
theorem decVal_pos {f : List Byte} (hne : f ≠ []) (hdigits : ∀ b ∈ f, isDigit b = true) (hhead : f.getD 0 0 ≠ 0x30) :
    1 ≤ decVal f := by
  cases f with
  | nil => contradiction
  | cons b f =>
    have hb := (isDigit_iff b).1 (hdigits b List.mem_cons_self)
    have hb0 : b.toNat ≠ 0x30 := fun h => hhead (BitVec.eq_of_toNat_eq h)
    rw [decVal, List.foldl_cons]
    exact Nat.le_trans (by omega) (decVal_foldl_le f _)

/-- R212, R214: a text without a leading zero is the text of its value. -/
theorem decText_decVal {f : List Byte} (hne : f ≠ []) (hdigits : ∀ b ∈ f, isDigit b = true)
    (hhead : f.getD 0 0 ≠ 0x30) : decText (decVal f) = f := by
  induction f using List.reverseRecOn with
  | nil => contradiction
  | append_singleton g b ih =>
    have hb := (isDigit_iff b).1 (hdigits b (by simp))
    rw [decVal_append_singleton]
    by_cases hg : g = []
    · subst hg
      have hzero : decVal [] = 0 := rfl
      rw [hzero, decText_of_lt (by omega), List.nil_append, List.singleton_inj]
      apply BitVec.eq_of_toNat_eq
      rw [digit_toNat (by omega)]
      omega
    · have hgdigits : ∀ c ∈ g, isDigit c = true := fun c hc => hdigits c (List.mem_append_left _ hc)
      rw [List.getD_append _ _ _ _ (List.length_pos_iff.2 hg)] at hhead
      have hpos := decVal_pos hg hgdigits hhead
      have hdiv : (10 * decVal g + (b.toNat - 0x30)) / 10 = decVal g := by omega
      have hmod : (10 * decVal g + (b.toNat - 0x30)) % 10 = b.toNat - 0x30 := by omega
      have hlast : BitVec.ofNat 8 (0x30 + (b.toNat - 0x30)) = b := by
        apply BitVec.eq_of_toNat_eq
        rw [digit_toNat (by omega)]
        omega
      rw [decText_of_ge (by omega), hdiv, hmod, ih hg hgdigits hhead, hlast]

/-! Tokens. -/

/-- R212: the text of every number in range is an accepted field. -/
theorem parseField_decText {v : Nat} (hpos : 1 ≤ v) (hle : v ≤ 65535) : parseField (decText v) = some v := by
  have hlen : 1 ≤ (decText v).length := List.length_pos_iff.2 (decText_ne_nil v)
  have hlen' : (decText v).length ≤ 5 := decText_length_le (by decide) (by omega)
  rw [parseField, decVal_decText, if_pos ⟨hlen, hlen', List.all_eq_true.2 (decText_isDigit v), decText_head hpos, hle⟩]

/-- R212: an accepted field is the text of its value. -/
theorem eq_decText_of_parseField {f : List Byte} {v : Nat} (h : parseField f = some v) : f = decText v := by
  unfold parseField at h
  split at h <;> cases h
  rename_i hfield
  obtain ⟨hlen, _, hdigits, hhead, _⟩ := hfield
  exact (decText_decVal (List.length_pos_iff.1 hlen) (List.all_eq_true.1 hdigits) hhead).symm

/-- R213: the first comma of a formatted token stands after the width. -/
theorem decText_ne_comma (v : Nat) : ∀ b ∈ decText v, (b != 0x2C) = true := by
  intro b hb
  have hdigit := (isDigit_iff b).1 (decText_isDigit v b hb)
  rw [bne_iff_ne]
  rintro rfl
  exact absurd hdigit.1 (by decide)

/-- R214: a formatted token parses to its dimensions. -/
theorem parseToken_formatToken {w h : Nat} (hw : 1 ≤ w) (hw' : w ≤ 65535) (hh : 1 ≤ h) (hh' : h ≤ 65535) :
    parseToken (formatToken w h) = some (w, h) := by
  have hcomma : ((0x2C : Byte) != 0x2C) = false := by decide
  have hformat : formatToken w h = decText w ++ 0x2C :: decText h := by simp [formatToken]
  have hdrop : (formatToken w h).dropWhile (fun b => b != 0x2C) = 0x2C :: decText h := by
    rw [hformat, List.dropWhile_append_of_pos (decText_ne_comma w), List.dropWhile_cons, hcomma, if_neg (by decide)]
  have htake : (formatToken w h).takeWhile (fun b => b != 0x2C) = decText w := by
    rw [hformat, List.takeWhile_append_of_pos (decText_ne_comma w), List.takeWhile_cons, hcomma, if_neg (by decide),
      List.append_nil]
  simp only [parseToken, hdrop, htake, parseField_decText hw hw', parseField_decText hh hh']

/-- R213: a token is at most 11 bytes. -/
theorem formatToken_length {w h : Nat} (hw' : w ≤ 65535) (hh' : h ≤ 65535) :
    3 ≤ (formatToken w h).length ∧ (formatToken w h).length ≤ 11 := by
  have hwpos := List.length_pos_iff.2 (decText_ne_nil w)
  have hhpos := List.length_pos_iff.2 (decText_ne_nil h)
  have hwle : (decText w).length ≤ 5 := decText_length_le (by decide) (by omega)
  have hhle : (decText h).length ≤ 5 := decText_length_le (by decide) (by omega)
  simp only [formatToken, List.length_append, List.length_singleton]
  omega

/-- R212, R214: a token that parses is the formatted one. -/
theorem eq_formatToken_of_parseToken {t : List Byte} {w h : Nat} (hp : parseToken t = some (w, h)) :
    t = formatToken w h := by
  unfold parseToken at hp
  split at hp
  · contradiction
  · rename_i c b hdrop
    split at hp <;> cases hp
    rename_i hw hh
    have hc : c = 0x2C := by
      have hne : t.dropWhile (fun b : Byte => b != 0x2C) ≠ [] := by
        rw [hdrop]
        exact List.cons_ne_nil c b
      have hhead := List.head_dropWhile_not (fun b : Byte => b != 0x2C) hne
      simp only [hdrop, List.head_cons] at hhead
      simpa using hhead
    have ht := List.takeWhile_append_dropWhile (p := fun b : Byte => b != 0x2C) (l := t)
    rw [eq_decText_of_parseField hw, hdrop, eq_decText_of_parseField hh, hc] at ht
    rw [← ht, formatToken, List.append_assoc, List.singleton_append]

/-- Settles O57: formatting and parsing are inverse on the dimensions in range. -/
theorem tokensParseExactly : Obligations.TokensParseExactly := by
  refine ⟨fun w h hw hw' hh hh' => ⟨parseToken_formatToken hw hw' hh hh', formatToken_length hw' hh'⟩,
    fun t w h hp => ⟨eq_formatToken_of_parseToken hp, parseToken_bounds hp⟩⟩

/-! The serializer. -/

/-- R216: the marks of one segment. -/
theorem segmentItems_marks {final : Bool} {bs : List Byte} {n : Nat} {it : OutItem}
    (h : (segmentItems final bs)[n]? = some it) :
    n < bs.length ∧ (it.segEnd = true ↔ n + 1 = bs.length) ∧ (it.last = true ↔ final = true ∧ n + 1 = bs.length) := by
  induction bs generalizing n with
  | nil => simp [segmentItems] at h
  | cons b bs ih =>
    cases bs with
    | nil =>
      cases n with
      | zero =>
        simp only [segmentItems, List.isEmpty_nil, if_true, List.getElem?_cons_zero, Option.some.injEq] at h
        subst h
        simp
      | succ n => simp [segmentItems] at h
    | cons c cs =>
      have hstep : segmentItems final (b :: c :: cs) = ⟨b, false, false⟩ :: segmentItems final (c :: cs) := rfl
      rw [hstep] at h
      cases n with
      | zero =>
        simp only [List.getElem?_cons_zero, Option.some.injEq] at h
        subst h
        simp
      | succ n =>
        obtain ⟨hlt, hseg, hlast⟩ := ih h
        simp only [List.length_cons] at hlt hseg hlast ⊢
        exact ⟨by omega, hseg.trans (by omega), hlast.trans (and_congr_right fun _ => by omega)⟩

/-- R217: the length of a frame. -/
theorem serializerQueue_length (w h : Nat) (c : List Byte) :
    (serializerQueue w h c).length = (formatToken w h).length + 32 + c.length := by
  simp only [serializerQueue, List.length_append, segmentItems_length, checksumText_length]

theorem serializerQueue_bytes (w h : Nat) (c : List Byte) :
    (serializerQueue w h c).map OutItem.byte = serialize w h c := by
  simp only [serializerQueue, List.map_append, segmentItems_bytes, serialize]

/-- Settles O58: each item belongs to one of the three segments. -/
theorem serializerMarksTheSegments : Obligations.SerializerMarksTheSegments := by
  intro w h c hc
  refine ⟨serializerQueue_bytes w h c, serializerQueue_length w h c, fun n it hit => ?_⟩
  have hcpos := List.length_pos_iff.2 hc
  have hsum := checksumText_length c
  rw [serializerQueue_length]
  rw [serializerQueue, List.getElem?_append, List.getElem?_append] at hit
  simp only [List.length_append, segmentItems_length] at hit
  split at hit
  · split at hit
    · obtain ⟨hlt, hseg, hlast⟩ := segmentItems_marks hit
      exact ⟨hseg.trans (by omega), hlast.trans (by simp; omega)⟩
    · obtain ⟨hlt, hseg, hlast⟩ := segmentItems_marks hit
      exact ⟨hseg.trans (by omega), hlast.trans (by simp; omega)⟩
  · obtain ⟨hlt, hseg, hlast⟩ := segmentItems_marks hit
    exact ⟨hseg.trans (by omega), hlast.trans (by simp; omega)⟩

end Sys2Proof.Proofs

/-! PROOFS. Frames (spec/43_frame.md section 4, R220; spec/44_commands.md R256, R261, R264): what a run of DIN writes
receives, segment by segment, and that a decryption gives back what an encryption sent. -/

namespace Sys2Proof.Proofs

open Sys2Proof Sys2Proof.Machine Sys2Proof.Laws Sys2Proof.Safety

/-- DIN writes one after another, each a byte and its LAST bit. -/
def feed (ps : List (Byte × Bool)) (s : State) : State := ps.foldl (fun s p => dinWrite p.1 p.2 s) s

theorem feed_cons (p : Byte × Bool) (ps : List (Byte × Bool)) (s : State) :
    feed (p :: ps) s = feed ps (dinWrite p.1 p.2 s) := rfl

theorem feed_append (ps qs : List (Byte × Bool)) (s : State) : feed (ps ++ qs) s = feed qs (feed ps s) :=
  List.foldl_append

/-- The DIN instructions of such writes. -/
def dinInstrs (ps : List (Byte × Bool)) : List Instr := ps.map fun p => .din p.1 p.2 0

/-- A run of DIN writes, then RX_EOS. -/
theorem execAll_dinInstrs (ps : List (Byte × Bool)) (s : State) :
    execAll (dinInstrs ps ++ [.rxEos]) s = .next (effect .rxEos (feed ps s)) := by
  induction ps generalizing s with
  | nil => rfl
  | cons p ps ih => exact ih (dinWrite p.1 p.2 s)

/-- R216, R221: an item as the receiving side writes it. -/
def itemWrite (it : OutItem) : Byte × Bool := (it.byte, it.segEnd)

theorem map_fst_itemWrite (final : Bool) (bs : List Byte) :
    ((segmentItems final bs).map itemWrite).map Prod.fst = bs := by
  rw [List.map_map]
  exact segmentItems_bytes final bs

/-- R264, R222: the token's bytes, LAST on the final one, are accepted. -/
theorem feed_token {bs : List Byte} {w h : Nat} {s : State} (hseq : s.seq = .decDims) (hne : bs ≠ [])
    (hlen : s.work.tok.length + bs.length ≤ 11) (hparse : parseToken (s.work.tok ++ bs) = some (w, h)) :
    feed ((segmentItems false bs).map itemWrite) s = acceptToken w h s := by
  induction bs generalizing s with
  | nil => contradiction
  | cons b bs ih =>
    have htok : s.work.tok.length ≠ 11 := by
      rw [List.length_cons] at hlen
      omega
    cases bs with
    | nil => exact (dinWrite_of_decDims b true hseq).trans (dinToken_accept b htok hparse)
    | cons c cs =>
      have hstep : segmentItems false (b :: c :: cs) = ⟨b, false, false⟩ :: segmentItems false (c :: cs) := rfl
      rw [hstep, List.map_cons, feed_cons, itemWrite, dinWrite_of_decDims b false hseq, dinToken_gather b htok]
      refine ih hseq (List.cons_ne_nil c cs) ?_ ?_
      · simp only [List.length_append, List.length_cons, List.length_nil] at hlen ⊢
        omega
      · simpa using hparse

/-- R264: the rest of the 32 checksum bytes, whatever their LAST bits. -/
theorem feed_checksum {ps : List (Byte × Bool)} {s : State} (hseq : s.seq = .decSum) (hne : ps ≠ [])
    (hlen : s.work.sum.length + ps.length = 32) :
    feed ps s = { s with work := { s.work with sum := s.work.sum ++ ps.map Prod.fst }, seq := .decCt } := by
  induction ps generalizing s with
  | nil => contradiction
  | cons p ps ih =>
    rw [feed_cons, dinWrite_of_decSum _ _ hseq]
    cases ps with
    | nil =>
      rw [dinChecksum_of_last p.1 (by simpa using hlen)]
      rfl
    | cons q qs =>
      simp only [List.length_cons] at hlen
      rw [dinChecksum_of_not_last p.1 (by omega)]
      refine (ih (s := { s with work := { s.work with sum := s.work.sum ++ [p.1] } }) hseq (List.cons_ne_nil q qs)
        (by simp; omega)).trans ?_
      simp

/-- R264: ciphertext bytes that fit, whatever their LAST bits. -/
theorem feed_ciphertext (ps : List (Byte × Bool)) {s : State} (hseq : s.seq = .decCt)
    (hlen : s.work.buf.length + ps.length ≤ s.params.bufBytes) :
    ∃ n, feed ps s =
      { s with work := { s.work with buf := s.work.buf ++ ps.map Prod.fst }, res := { s.res with ctlen := n } } := by
  induction ps generalizing s with
  | nil => exact ⟨s.res.ctlen, by simp [feed]⟩
  | cons p ps ih =>
    rw [List.length_cons] at hlen
    rw [feed_cons, dinWrite_of_decCt _ _ hseq, dinCiphertext_of_not_full p.1 (by omega)]
    obtain ⟨n, hn⟩ := ih (s := { s with
      work := { s.work with buf := s.work.buf ++ [p.1] }
      res := { s.res with ctlen := BitVec.ofNat 32 (s.work.buf.length + 1) } }) hseq (by simp; omega)
    exact ⟨n, by rw [hn]; simp⟩

/-- The state after a whole frame: `n` is what CTLEN counts. -/
def received (w h : Nat) (c : List Byte) (n : Word) (s : State) : State :=
  { s with
    seq := .decProc
    res := { s.res with rxWidth := BitVec.ofNat 16 w, rxHeight := BitVec.ofNat 16 h, ctlen := n }
    work := { s.work with tok := [], sum := checksumText c, buf := c } }

/-- R220: a frame whose token ends in LAST is received whole, whatever the LAST bits after the token. -/
theorem execAll_frame {w h : Nat} {c : List Byte} {s : State} {sums cts : List (Byte × Bool)}
    (hsums : sums.map Prod.fst = checksumText c) (hcts : cts.map Prod.fst = c) (hseq : s.seq = .decDims)
    (htok : s.work.tok = []) (hsum : s.work.sum = []) (hbuf : s.work.buf = []) (hw : 1 ≤ w) (hw' : w ≤ 65535)
    (hh : 1 ≤ h) (hh' : h ≤ 65535) (hc : c.length ≤ s.params.bufBytes) :
    ∃ n, execAll (dinInstrs ((segmentItems false (formatToken w h)).map itemWrite ++ sums ++ cts) ++ [.rxEos]) s =
      .next (received w h c n s) := by
  obtain ⟨htoklo, htokhi⟩ := formatToken_length hw' hh'
  have hsumslen : sums.length = 32 := by rw [← checksumText_length c, ← hsums, List.length_map]
  have hctslen : cts.length = c.length := by rw [← hcts, List.length_map]
  have htoken : feed ((segmentItems false (formatToken w h)).map itemWrite) s = acceptToken w h s := by
    refine feed_token hseq (List.length_pos_iff.1 (by omega)) (by simpa [htok] using htokhi) ?_
    rw [htok, List.nil_append, parseToken_formatToken hw hw' hh hh']
  have hchecksum := feed_checksum (s := acceptToken w h s) (ps := sums) rfl (List.length_pos_iff.1 (by omega))
    (by simpa [hsum] using hsumslen)
  obtain ⟨n, hciphertext⟩ := feed_ciphertext cts
    (s := { acceptToken w h s with
      work := { (acceptToken w h s).work with sum := (acceptToken w h s).work.sum ++ sums.map Prod.fst }
      seq := .decCt }) rfl (by simpa [hbuf, hctslen] using hc)
  refine ⟨n, ?_⟩
  rw [execAll_dinInstrs, feed_append, feed_append, htoken, hchecksum, hciphertext,
    effect_rxEos_of_receiving (.inr (.inr rfl)), rxEos_of_decCt rfl]
  simp [received, hsums, hcts, hsum, hbuf]

theorem frameWrites_eq (w h : Nat) (c : List Byte) : frameWrites w h c =
    dinInstrs ((segmentItems false (formatToken w h)).map itemWrite ++ (checksumText c).map (fun b => (b, false)) ++
      c.map (fun b => (b, false))) := by
  simp [frameWrites, dinInstrs, itemWrite, Function.comp_def]

theorem map_fst_pair (bs : List Byte) : (bs.map (fun b => (b, false))).map Prod.fst = bs := by
  simp [Function.comp_def]

/-- Settles O59: the frame's writes are a token with LAST on its end, and the rest. -/
theorem frameRoundTrip : Obligations.FrameRoundTrip := by
  intro s w h c hseq htok hsum hbuf hw hw' hh hh' hc
  obtain ⟨n, hrun⟩ := execAll_frame (map_fst_pair (checksumText c)) (map_fst_pair c) hseq htok hsum hbuf hw hw' hh hh'
    hc
  have hwidth : (BitVec.ofNat 16 w).toNat = w := by
    rw [BitVec.toNat_ofNat]
    omega
  have hheight : (BitVec.ofNat 16 h).toNat = h := by
    rw [BitVec.toNat_ofNat]
    omega
  rw [frameWrites_eq]
  exact ⟨_, hrun, rfl, hwidth, hheight, rfl, rfl, rfl, rfl, rfl, ⟨rfl, rfl, rfl, rfl, rfl, rfl⟩⟩

theorem itemWrites_serializerQueue (w h : Nat) (c : List Byte) : itemWrites (serializerQueue w h c) =
    dinInstrs ((segmentItems false (formatToken w h)).map itemWrite ++
      (segmentItems false (checksumText c)).map itemWrite ++ (segmentItems true c).map itemWrite) := by
  simp [itemWrites, serializerQueue, dinInstrs, itemWrite, Function.comp_def]

/-- R261: a frame that carries the ciphertext of `p` under the working key completes to `p`. -/
theorem engineStep_received {w h : Nat} {iv p : List Byte} {n : Word} {t : State} (hiv : iv.length = 16)
    (hp : p.length = imageBytes (BitVec.ofNat 16 w) (BitVec.ofNat 16 h)) :
    let u := received w h (encrypt t.work.wkey iv p) n t
    engineStep u = releasePlaintext p (storePtlen p.length (storeDigest u)) := by
  intro u
  have hverify : verify u.work.buf u.work.sum = true := (verify_iff _ _).2 rfl
  have hdecrypt : decrypt u.work.wkey u.work.buf = some p := decrypt_encrypt t.work.wkey p hiv
  have hlen : ¬ p.length ≠ rxBytes (storeDigest u) := not_not.2 hp
  have hengine : engineStep u = decComplete u := rfl
  rw [hengine, decComplete, if_pos hverify, hdecrypt]
  simp only [decAccept, if_neg hlen]

/-- Settles O60: the items of the encryption are such a frame. -/
theorem endToEnd : Obligations.EndToEnd := by
  intro s t hs ht hsseq htseq htok hkey hbytes
  obtain ⟨hww, hwh, hfits⟩ := hs.dims (by simp [hsseq, encrypting])
  have hpt := hs.ptFull hsseq
  have hpos : ∀ v : BitVec 16, v ≠ 0 → 1 ≤ v.toNat ∧ v.toNat ≤ 65535 := by
    intro v hv
    have hne : v.toNat ≠ 0 := fun h0 => hv (BitVec.eq_of_toNat_eq h0)
    have hlt := v.isLt
    omega
  have hlen : (encCiphertext s).length ≤ t.params.bufBytes := by
    rw [encCiphertext_length, hpt]
    exact hfits.trans hbytes
  have houtq : (engineStep s).work.outq = serializerQueue s.work.ww.toNat s.work.wh.toNat (encCiphertext s) := by
    simp only [engineStep, hsseq]
    rfl
  obtain ⟨n, hrun⟩ := execAll_frame (map_fst_itemWrite false (checksumText (encCiphertext s)))
    (map_fst_itemWrite true (encCiphertext s)) htseq htok
    (ht.listed.sum (by simp [htseq]) (by simp [htseq]) (by simp [htseq]))
    (ht.listed.buf (by simp [htseq]) (by simp [htseq]) (by simp [htseq]))
    (hpos _ hww).1 (hpos _ hww).2 (hpos _ hwh).1 (hpos _ hwh).2 hlen
  rw [houtq, itemWrites_serializerQueue]
  refine ⟨_, hrun, ?_⟩
  have hcipher : encCiphertext s = encrypt t.work.wkey s.work.wiv.toList s.work.pt := by rw [hkey]; rfl
  have hcomplete := engineStep_received (w := s.work.ww.toNat) (h := s.work.wh.toNat) (iv := s.work.wiv.toList)
    (p := s.work.pt) (n := n) (t := t) (by simp) (by simpa [npt] using hpt)
  rw [hcipher, hcomplete]
  exact ⟨rfl, ht.listed.errc (by simp [htseq]), rfl⟩

end Sys2Proof.Proofs
